-- ==== Sys2Proof/Word.lean ====
section
/-! DEFINITION. The words the block handles: every quantity is an unsigned byte (spec R7, R36), a 7-bit device address
(R70) or the 64-bit command word (R60). -/

namespace Sys2Proof

/-- A byte, bits numbered from 0 at the least significant bit (R7). -/
abbrev Byte := BitVec 8

/-- A 7-bit device address (R70). -/
abbrev DevAddr := BitVec 7

/-- The 64-bit command word `CMD[63:0]` (R60). -/
abbrev CmdWord := BitVec 64

end Sys2Proof
end

