-- ==== Sys2Proof/Syntax.lean ====
section
/-! DEFINITION. The twelve commands, one constructor per row of spec/opcode_table.json (spec R61). -/

namespace Sys2Proof

/-- A command with its operand bytes in the order of R61. Every operand is an unsigned byte used as it stands (R62),
so every term is a well-formed command (log 21). -/
inductive Instr where
  /-- DEC2BCD, `decToBcd(value)` (R90). -/
  | dec2bcd (value : Byte)
  /-- BCD2DEC, `bcdToDec(value)` (R91). -/
  | bcd2dec (value : Byte)
  /-- SETDT, `setDateTime(fields)` (R110). -/
  | setdt (second minute hour dayOfWeek dayOfMonth month year : Byte)
  /-- GETDT, `getDateTime()` (R111). -/
  | getdt
  /-- CLKEN, `enableClock()` (R112). -/
  | clken
  /-- CLKDIS, `disableClock()` (R113). -/
  | clkdis
  /-- BATEN, `enableBattery()` (R114). -/
  | baten
  /-- SRAMWR, `setSramByte(location, data)` (R131). -/
  | sramwr (location data : Byte)
  /-- SRAMRD, `getSramByte(location)` (R132). -/
  | sramrd (location : Byte)
  /-- IDUNLOCK, `unlockUniqueID()` (R140). -/
  | idunlock
  /-- MACWR, `writeMacAddress(bytes[6])` (R141). -/
  | macwr (b0 b1 b2 b3 b4 b5 : Byte)
  /-- MACRD, `getMacAddress()` (R142). -/
  | macrd
  deriving DecidableEq, Repr

end Sys2Proof
end

