-- ==== Sys2Proof/Decode.lean ====
section
/-! DEFINITION. The command word (spec R60 to R64): fields, decoder, encoder, and the opcode table's masks.
The decoder is total and rejects a malformed word by name (R63). -/

namespace Sys2Proof

/-- Why a word is malformed (R63). -/
inductive DecodeError where
  /-- `OP` is `0x0`, `0xD`, `0xE` or `0xF`. -/
  | reservedOpcode
  /-- The field `Z` is not `0000`. -/
  | zFieldNotZero
  /-- An operand byte the command does not use is not `0x00`. -/
  | unusedOperandNotZero
  deriving DecidableEq, Repr

/-- `OP`, bits 63:60 (R60). -/
def opField (w : CmdWord) : BitVec 4 := w.extractLsb' 60 4

/-- `Z`, bits 59:56 (R60). -/
def zField (w : CmdWord) : BitVec 4 := w.extractLsb' 56 4

/-- `op[i] = CMD[8*i+7 : 8*i]` (R62). -/
def operandByte (w : CmdWord) (i : Nat) : Byte := w.extractLsb' (8 * i) 8

/-- Operand bytes `B<used>` to `B6` are all `0x00` (R63): every command uses the lowest `used` bytes (R61). -/
def unusedZero (w : CmdWord) (used : Nat) : Bool :=
  (List.range 7).all fun i => decide (i < used) || operandByte w i == 0#8

/-- The command, if the operand bytes above the used ones are zero (R63). -/
def checkUnused (w : CmdWord) (used : Nat) (i : Instr) : Except DecodeError Instr :=
  if unusedZero w used then .ok i else .error .unusedOperandNotZero

/-- The opcode map of R61 on the operand bytes of the word. -/
def decodeOpcode (w : CmdWord) : Except DecodeError Instr :=
  match (opField w).toNat with
  | 0x1 => checkUnused w 1 (.dec2bcd (operandByte w 0))
  | 0x2 => checkUnused w 1 (.bcd2dec (operandByte w 0))
  | 0x3 => checkUnused w 7 (.setdt (operandByte w 0) (operandByte w 1) (operandByte w 2) (operandByte w 3)
      (operandByte w 4) (operandByte w 5) (operandByte w 6))
  | 0x4 => checkUnused w 0 .getdt
  | 0x5 => checkUnused w 0 .clken
  | 0x6 => checkUnused w 0 .clkdis
  | 0x7 => checkUnused w 0 .baten
  | 0x8 => checkUnused w 2 (.sramwr (operandByte w 0) (operandByte w 1))
  | 0x9 => checkUnused w 1 (.sramrd (operandByte w 0))
  | 0xA => checkUnused w 0 .idunlock
  | 0xB => checkUnused w 6 (.macwr (operandByte w 0) (operandByte w 1) (operandByte w 2) (operandByte w 3)
      (operandByte w 4) (operandByte w 5))
  | 0xC => checkUnused w 0 .macrd
  | _ => .error .reservedOpcode

/-- Decoding (R60 to R64): the command a word stands for, or why it is malformed. -/
def decode (w : CmdWord) : Except DecodeError Instr :=
  if zField w = 0#4 then decodeOpcode w else .error .zFieldNotZero

/-- The format `C` of R60 with `Z = 0000`. -/
def layout (op : BitVec 4) (b6 b5 b4 b3 b2 b1 b0 : Byte) : CmdWord :=
  op ++ 0#4 ++ b6 ++ b5 ++ b4 ++ b3 ++ b2 ++ b1 ++ b0

/-- The word of a command (R60 to R63): unused operand bytes are `0x00`. -/
def encode : Instr → CmdWord
  | .dec2bcd v => layout 0x1#4 0 0 0 0 0 0 v
  | .bcd2dec v => layout 0x2#4 0 0 0 0 0 0 v
  | .setdt sec mi h dow dom mo y => layout 0x3#4 y mo dom dow h mi sec
  | .getdt => layout 0x4#4 0 0 0 0 0 0 0
  | .clken => layout 0x5#4 0 0 0 0 0 0 0
  | .clkdis => layout 0x6#4 0 0 0 0 0 0 0
  | .baten => layout 0x7#4 0 0 0 0 0 0 0
  | .sramwr loc d => layout 0x8#4 0 0 0 0 0 d loc
  | .sramrd loc => layout 0x9#4 0 0 0 0 0 0 loc
  | .idunlock => layout 0xA#4 0 0 0 0 0 0 0
  | .macwr b0 b1 b2 b3 b4 b5 => layout 0xB#4 0 b5 b4 b3 b2 b1 b0
  | .macrd => layout 0xC#4 0 0 0 0 0 0 0

/-- One row of spec/opcode_table.json: a word is the row's when `word & mask = match` (R64). -/
structure TableRow where
  mnemonic : String
  mask : CmdWord
  pattern : CmdWord
  deriving DecidableEq, Repr

/-- Whether a word matches a row (R64). -/
def TableRow.fits (r : TableRow) (w : CmdWord) : Bool := w &&& r.mask == r.pattern

/-- The twelve rows of spec/opcode_table.json. -/
def opcodeTable : List TableRow :=
  [ ⟨"DEC2BCD", 0xFFFFFFFFFFFFFF00#64, 0x1000000000000000#64⟩,
    ⟨"BCD2DEC", 0xFFFFFFFFFFFFFF00#64, 0x2000000000000000#64⟩,
    ⟨"SETDT", 0xFF00000000000000#64, 0x3000000000000000#64⟩,
    ⟨"GETDT", 0xFFFFFFFFFFFFFFFF#64, 0x4000000000000000#64⟩,
    ⟨"CLKEN", 0xFFFFFFFFFFFFFFFF#64, 0x5000000000000000#64⟩,
    ⟨"CLKDIS", 0xFFFFFFFFFFFFFFFF#64, 0x6000000000000000#64⟩,
    ⟨"BATEN", 0xFFFFFFFFFFFFFFFF#64, 0x7000000000000000#64⟩,
    ⟨"SRAMWR", 0xFFFFFFFFFFFF0000#64, 0x8000000000000000#64⟩,
    ⟨"SRAMRD", 0xFFFFFFFFFFFFFF00#64, 0x9000000000000000#64⟩,
    ⟨"IDUNLOCK", 0xFFFFFFFFFFFFFFFF#64, 0xA000000000000000#64⟩,
    ⟨"MACWR", 0xFFFF000000000000#64, 0xB000000000000000#64⟩,
    ⟨"MACRD", 0xFFFFFFFFFFFFFFFF#64, 0xC000000000000000#64⟩ ]

/-- The mnemonic of a command (R61, R66: every mnemonic stands for exactly one opcode). -/
def mnemonicOf : Instr → String
  | .dec2bcd _ => "DEC2BCD"
  | .bcd2dec _ => "BCD2DEC"
  | .setdt _ _ _ _ _ _ _ => "SETDT"
  | .getdt => "GETDT"
  | .clken => "CLKEN"
  | .clkdis => "CLKDIS"
  | .baten => "BATEN"
  | .sramwr _ _ => "SRAMWR"
  | .sramrd _ => "SRAMRD"
  | .idunlock => "IDUNLOCK"
  | .macwr _ _ _ _ _ _ => "MACWR"
  | .macrd => "MACRD"

/-- The command a table word of `nbits` bits stands for: the word is the whole 64-bit command (R60), presented whole
(R43), so bits above `nbits` are zero and a longer word is none (log 22). -/
def decodeTableWord (nbits w : Nat) : Option Instr :=
  if nbits ≤ 64 then (decode (BitVec.ofNat 64 (w % 2 ^ nbits))).toOption else none

end Sys2Proof
end

