-- ==== Sys2Proof/Config.lean ====
section
/-! DEFINITION. What an implementation fixes (the OPEN parameters of spec R5), the environment's choices (R44, R53), and the
free values: the byte `any8` (R8) and what a transport does after a reset of a busy block (R172). -/

namespace Sys2Proof

namespace Machine

/-- What the environment does with one coming `RECV` (R53). -/
inductive RecvPlan where
  /-- The target's answer (R49). -/
  | answered
  /-- The byte is `any8`; whether the target's pointer moves all the same is left open (log 8). -/
  | lost (pointerMoves : Bool)
  deriving DecidableEq, Repr

/-- The environment's choices (R44, R53; logs 7, 10, 16), read and used up by the events. -/
structure Env where
  /-- For each coming `END`, how many of the pending bytes are delivered; past the list's end, all of them. -/
  delivered : List Nat
  /-- For each coming `RECV`, what happens; past the list's end, it is answered. -/
  recvs : List RecvPlan
  /-- How many more primitive calls return before one never does; `none`: every call returns (R186). -/
  returns : Option Nat
  deriving DecidableEq, Repr, Inhabited

end Machine

/-- The three constants the source names without a number (R5, D2, D3): `RTC_DEV_ADDR`, `EEPROM_DEV_ADDR`,
`RTC_TIME_BASE`. They do not change while the block runs; a statement about every state holds for every value. -/
structure Config where
  rtcDevAddr : DevAddr
  eepromDevAddr : DevAddr
  rtcTimeBase : Byte
  deriving DecidableEq, Repr

/-- The values the spec suggests from general knowledge (R5, G1 to G3). PRESUMED, log 1. -/
def Config.suggested : Config :=
  { rtcDevAddr := 0x6F#7, eepromDevAddr := 0x57#7, rtcTimeBase := 0x00#8 }

/-- `any8` (R8): a byte the rules do not determine, a fresh one for each draw. It has no body, so nothing can be
proved of its values (log 6). -/
opaque Config.any8 : Nat → Byte

/-- What the transport does from a reset of a busy block on: unknown (R172). It has no body, so nothing can be proved of
what arrives, is answered or returns (log 16). -/
opaque Config.anyEnv : Nat → Machine.Env

end Sys2Proof
end

