-- ==== Sys2Proof/Machine/State.lean ====
section
/-! DEFINITION. Everything the spec gives the machine, as plain data (spec 10_state.md, 20_memory.md R45), the reasons a
read can fault or a step can refuse, and the state after reset (R22). -/

namespace Sys2Proof.Machine

/-- `PHASE` (R10). -/
inductive Phase where
  | idle
  | busy
  deriving DecidableEq, Repr

/-- The two devices (R30, R102). -/
inductive Device where
  | rtc
  | eeprom
  deriving DecidableEq, Repr

/-- `LOCK` (R45, R50). -/
inductive Lock where
  | locked
  | half
  | unlocked
  deriving DecidableEq, Repr

/-- One call of a transport primitive (R34). -/
inductive Event where
  /-- `BEGIN(a)` -/
  | beginT (a : DevAddr)
  /-- `QUEUE(b)` -/
  | queue (b : Byte)
  /-- `END` -/
  | endT
  /-- `REQ(a, n)` -/
  | req (a : DevAddr) (n : Nat)
  /-- `RECV` -/
  | recv
  deriving DecidableEq, Repr

/-- Seven bytes: the shape of `TXBUF`, `RXBUF` and `RES` (R13, R14). -/
structure Buf where
  b0 : Byte
  b1 : Byte
  b2 : Byte
  b3 : Byte
  b4 : Byte
  b5 : Byte
  b6 : Byte
  deriving DecidableEq, Repr

/-- Seven bytes `0x00`. -/
def Buf.zero : Buf := ⟨0, 0, 0, 0, 0, 0, 0⟩

/-- `STATUS` (R15): bit 0 `RANGE`, bit 1 `ILL`. -/
structure Status where
  range : Bool
  ill : Bool
  deriving DecidableEq, Repr

/-- The transport's pending transaction (R17): the open write transaction with the bytes queued so far, and the read
request with the number of bytes not yet consumed. -/
structure Bus where
  write : Option (DevAddr × List Byte)
  read : Option (DevAddr × Nat)
  deriving DecidableEq, Repr

/-- One byte store of 256 bytes, in canonical form: addresses strictly rising, no byte equal to what an unlisted address
reads as. -/
abbrev Memory := List Host.Cell

/-- The target (R18 to R20, R45). -/
structure Target where
  /-- `RTCMEM` -/
  rtcmem : Memory
  /-- `EEMEM` -/
  eemem : Memory
  /-- `PTR[RTC]` -/
  ptrRtc : Byte
  /-- `PTR[EEPROM]` -/
  ptrEeprom : Byte
  /-- `LOCK` -/
  lock : Lock
  /-- False once a reset has hit a busy block: the transport and the target are unknown afterwards (R172; log 16). -/
  known : Bool
  deriving DecidableEq, Repr

/-- Why a read by the host stops (no step of the block faults). -/
inductive Fault where
  /-- Raised by `readRes` and `readStatus`: the host reads `RES` or `STATUS` in `BUSY` (R14, R185, D21). Safe: the
  model stops where the spec gives no value. -/
  | hostReadWhileBusy
  /-- Raised by `readRes`, a read by the host, which no step makes: no command with a result has completed since reset. Safe:
  the spec states this fault, 'a read of a value nothing has written (fault), not as zero' (R22; D24; U11). -/
  | resNeverWritten
  deriving DecidableEq, Repr

/-- Why a step is refused. -/
inductive Refusal where
  /-- Raised by an arm of `exec` that has no meaning; no arm is such. Safe. -/
  | notModelled (mnemonic : String)
  /-- Raised by `step`: the configuration breaks R6, and the spec has the model refuse it (R6, D6). Safe. -/
  | illFormedConfig
  deriving DecidableEq, Repr

/-- The machine: the block (R10 to R15), its configuration (R5), the transport (R17), the target (R18 to R20), the
environment's choices (R53), the host's side (R66, R170), and the model's own `draws` and `events`. -/
structure State where
  /-- The OPEN parameters (R5); no step changes them. -/
  cfg : Config
  /-- `PHASE` (R10) -/
  phase : Phase
  /-- `CMD` (R11) -/
  cmd : CmdWord
  /-- `SEQ` (R12) -/
  seq : Nat
  /-- `TXBUF` (R13) -/
  txbuf : Buf
  /-- `RXBUF` (R13) -/
  rxbuf : Buf
  /-- `RES` (R14) -/
  res : Buf
  /-- Whether a command with a result has completed since reset: what R22's fault of a read of `RES` depends on. -/
  resWritten : Bool
  /-- `STATUS` (R15) -/
  status : Status
  /-- The transport's pending transaction (R17). -/
  bus : Bus
  /-- The target (R18 to R20, R45). -/
  target : Target
  /-- The environment's choices (R44, R53). -/
  env : Env
  /-- The words the host has still to present, the first being presented now (R66, R103; log 12). -/
  host : List CmdWord
  /-- The reset input is asserted (R170). When it is, the environment decides: no step asserts it (log 16). -/
  resetIn : Bool
  /-- How many free values have been drawn (R8; logs 6, 16). The model's own. -/
  draws : Nat
  /-- The events emitted, oldest first (R9; log 13). The model's own record of the block's output. -/
  events : List Event
  deriving DecidableEq, Repr

/-- The state after reset (R22). Where R22 says "unspecified" the value is the model's (logs 3, 4); the fields
R22 does not list have the values of logs 1, 6, 7, 12, 13 and 16. -/
def State.reset : State where
  cfg := Config.suggested
  phase := .idle
  cmd := 0#64
  seq := 0
  txbuf := Buf.zero
  rxbuf := Buf.zero
  res := Buf.zero
  resWritten := false
  status := ⟨false, false⟩
  bus := ⟨none, none⟩
  target := ⟨[], [], 0#8, 0#8, .locked, true⟩
  env := ⟨[], [], none⟩
  host := []
  resetIn := false
  draws := 0
  events := []

end Sys2Proof.Machine
end

