-- ==== Sys2Proof/Machine/Flags.lean ====
section
/-! DEFINITION. The status flags (spec R15, R150, R151, R153): there are two, and `raise` only sets one in the step that
completes the command; control never moves (R150, R157). No arithmetic condition code exists (R15, R94). -/

namespace Sys2Proof.Machine

/-- Both flags at once: they are written together (R156). -/
def State.writeStatus (range ill : Bool) (s : State) : State :=
  { s with status := ⟨range, ill⟩ }

/-- `STATUS.RANGE <- 0`, `STATUS.ILL <- 0`. -/
def State.clearStatus (s : State) : State := s.writeStatus false false

/-- `raise RangeError` (R151): `STATUS.RANGE <- 1`. -/
def State.raiseRange (s : State) : State := s.writeStatus true false

/-- `raise IllegalCommand` (R153): `STATUS.ILL <- 1`, `STATUS.RANGE <- 0` (R63). -/
def State.raiseIllegal (s : State) : State := s.writeStatus false true

/-- `STATUS` as the host reads it: `RANGE` in bit 0, `ILL` in bit 1, bits 7 to 2 zero (R15). -/
def Status.toByte (st : Status) : Byte :=
  (if st.range then 0x01#8 else 0#8) ||| (if st.ill then 0x02#8 else 0#8)

end Sys2Proof.Machine
end

