-- ==== Sys2Proof/Machine/Bcd.lean ====
section
/-! DEFINITION. The two functions of the BCD codec (spec R90, R91, R93, R94), used as commands and inside every other
family. They are defined for all 256 inputs (R93, C3, D7). -/

namespace Sys2Proof.Machine

/-- `trunc8(n)` (R8). -/
def trunc8 (n : Nat) : Byte := BitVec.ofNat 8 n

/-- `decToBcd(v) = trunc8((v / 10) * 16 + (v % 10))` (R90). -/
def decToBcd (v : Byte) : Byte := trunc8 (v.toNat / 10 * 16 + v.toNat % 10)

/-- `bcdToDec(v) = (v / 16) * 10 + (v % 16)` (R91); at most 165, so a byte holds it. -/
def bcdToDec (v : Byte) : Byte := trunc8 (v.toNat / 16 * 10 + v.toNat % 16)

end Sys2Proof.Machine
end

