-- ==== Sys2Proof/Machine/Constants.lean ====
section
/-! DEFINITION. The constants of spec R5 whose value the source prints (G5: unaudited), and the two the spec decides
(`MAC_READ_PTR`, D5; the device of the unlock register, D4, stands with IDUNLOCK). -/

namespace Sys2Proof.Const

/-- `DOW_OFFSET`: the day-of-week register is at base + 3. -/
def dowOffset : Byte := 3#8
/-- `DT_LEN`: seven consecutive time registers. -/
def dtLen : Nat := 7
/-- `M_SEC`. -/
def mSec : Byte := 0x7F#8
/-- `M_MIN`. -/
def mMin : Byte := 0x7F#8
/-- `M_HOUR`. -/
def mHour : Byte := 0x3F#8
/-- `M_DOW`. -/
def mDow : Byte := 0x07#8
/-- `M_DOM`. -/
def mDom : Byte := 0x3F#8
/-- `M_MON`. -/
def mMon : Byte := 0x1F#8
/-- `M_YEAR`. -/
def mYear : Byte := 0xFF#8
/-- `CLK_EN_BIT`: bit 7 of the seconds register. -/
def clkEnBit : Byte := 0x80#8
/-- `BAT_EN_BIT`: bit 3 of the day-of-week register. -/
def batEnBit : Byte := 0x08#8
/-- `SRAM_LO`. -/
def sramLo : Byte := 0x20#8
/-- `SRAM_HI`. -/
def sramHi : Byte := 0x5F#8
/-- `UNLOCK_REG`. -/
def unlockReg : Byte := 0x09#8
/-- `UNLOCK_KEY1`. -/
def unlockKey1 : Byte := 0x55#8
/-- `UNLOCK_KEY2`. -/
def unlockKey2 : Byte := 0xAA#8
/-- `MAC_WRITE_PTR`. -/
def macWritePtr : Byte := 0xF2#8
/-- `MAC_READ_PTR` (D5, C7: the same offset, under its own name). -/
def macReadPtr : Byte := 0xF2#8
/-- `MAC_LEN`. -/
def macLen : Nat := 6

end Sys2Proof.Const
end

