-- ==== Sys2Proof/Machine/Operands.lean ====
section
/-! DEFINITION. The operand forms: seven-byte buffers, the range-tested SRAM location (spec R130), and a time field
encoded and masked for a register or masked and decoded from one (R110, R111, R115). -/

namespace Sys2Proof.Machine

/-- Byte `i` of a buffer. -/
def Buf.get (b : Buf) : Fin 7 → Byte
  | 0 => b.b0
  | 1 => b.b1
  | 2 => b.b2
  | 3 => b.b3
  | 4 => b.b4
  | 5 => b.b5
  | 6 => b.b6

/-- Store byte `i`; there is no byte 7. -/
def Buf.set (b : Buf) (i : Nat) (v : Byte) : Buf :=
  match i with
  | 0 => { b with b0 := v }
  | 1 => { b with b1 := v }
  | 2 => { b with b2 := v }
  | 3 => { b with b3 := v }
  | 4 => { b with b4 := v }
  | 5 => { b with b5 := v }
  | 6 => { b with b6 := v }
  | _ => b

/-- Load the bytes of a burst from byte 0 on; bytes past the list keep their value. -/
def Buf.load (b : Buf) (ds : List Byte) : Buf :=
  ⟨ds.getD 0 b.b0, ds.getD 1 b.b1, ds.getD 2 b.b2, ds.getD 3 b.b3, ds.getD 4 b.b4, ds.getD 5 b.b5, ds.getD 6 b.b6⟩

/-- A result of one byte: the bytes a rule does not list are `0x00` (R14, R65). -/
def Buf.single (v : Byte) : Buf := ⟨v, 0, 0, 0, 0, 0, 0⟩

/-- The range test of SRAMWR and SRAMRD: both ends included (R130). -/
def inSramWindow (loc : Byte) : Bool :=
  decide (Const.sramLo.toNat ≤ loc.toNat) && decide (loc.toNat ≤ Const.sramHi.toNat)

/-- A time field BCD-encoded and masked for its register (R110). -/
def encodeField (mask v : Byte) : Byte := decToBcd v &&& mask

/-- A register byte masked and BCD-decoded to a time field (R111). -/
def decodeField (mask r : Byte) : Byte := bcdToDec (r &&& mask)

end Sys2Proof.Machine
end

