-- ==== Sys2Proof/Machine/Ops.lean ====
section
/-! DEFINITION. The named operations: the byte stores, the reference target (spec R45 to R54), the transport (R34, R53),
one event (R104), accepting and completing a command (R103, R104), a malformed word (R63), the reset input (R170 to
R172), what the host reads (R14, R15, R22), and which command the next step runs. No condition moves control and nothing
is saved or restored (R150, R157): the only "exception entry" is a flag, in Sys2Proof/Machine/Flags.lean. -/

namespace Sys2Proof.Machine

/-! ## Byte stores -/

/-- What an address that is not listed reads as. DESIGN CHOICE, log 4. -/
def Memory.unlisted : Byte := 0x00#8

/-- The byte at a natural-number address. -/
def Memory.lookup : Memory → Nat → Byte
  | [], _ => Memory.unlisted
  | (b, w) :: m, a => if b = a then w else Memory.lookup m a

/-- Store a byte, keeping the canonical form. -/
def Memory.put : Memory → Nat → Byte → Memory
  | [], a, v => if v = Memory.unlisted then [] else [(a, v)]
  | (b, w) :: m, a, v =>
    if a < b then
      if v = Memory.unlisted then (b, w) :: m else (a, v) :: (b, w) :: m
    else if a = b then
      if v = Memory.unlisted then m else (a, v) :: m
    else (b, w) :: Memory.put m a v

/-- Canonical form from address `lo` on: strictly rising, below 256, no entry equal to an unlisted byte. -/
def Memory.wfFrom : Nat → Memory → Bool
  | _, [] => true
  | lo, (a, v) :: m =>
    decide (lo ≤ a) && decide (a < 256) && decide (v ≠ Memory.unlisted) && Memory.wfFrom (a + 1) m

/-- The canonical form. -/
def Memory.wf (m : Memory) : Bool := Memory.wfFrom 0 m

/-- The byte at a RegisterAddress (R30). -/
def Memory.read (m : Memory) (a : Byte) : Byte := Memory.lookup m a.toNat

/-- Store a byte at a RegisterAddress (R30). -/
def Memory.write (m : Memory) (a v : Byte) : Memory := Memory.put m a.toNat v

/-! ## The reference target -/

/-- `addr(dev)` (R8, R102). -/
def addrOf (c : Config) : Device → DevAddr
  | .rtc => c.rtcDevAddr
  | .eeprom => c.eepromDevAddr

/-- The device that answers at an address; none answers at any other (R46). -/
def deviceAt (c : Config) (a : DevAddr) : Option Device :=
  if a = c.rtcDevAddr then some .rtc else if a = c.eepromDevAddr then some .eeprom else none

/-- `MEM_X` (R49). -/
def Target.mem (t : Target) : Device → Memory
  | .rtc => t.rtcmem
  | .eeprom => t.eemem

/-- `PTR[X]` (R45). -/
def Target.ptr (t : Target) : Device → Byte
  | .rtc => t.ptrRtc
  | .eeprom => t.ptrEeprom

/-- `PTR[X] <- p`. -/
def Target.setPtr (t : Target) (x : Device) (p : Byte) : Target :=
  match x with
  | .rtc => { t with ptrRtc := p }
  | .eeprom => { t with ptrEeprom := p }

/-- `PTR[X] <- (PTR[X] + 1) % 256` (R47, R49). -/
def Target.advancePtr (t : Target) (x : Device) : Target := t.setPtr x (t.ptr x + 1#8)

/-- `lock_step(v)`: the lock machine's table (R50). -/
def lockStep (l : Lock) (v : Byte) : Lock :=
  match l with
  | .locked => if v = Const.unlockKey1 then .half else .locked
  | .half => if v = Const.unlockKey2 then .unlocked else if v = Const.unlockKey1 then .half else .locked
  | .unlocked => .unlocked

/-- The lock after a byte is stored in the RTC space (R48). -/
def lockAfterRtcStore (l : Lock) (a v : Byte) : Lock :=
  if a = Const.unlockReg then lockStep l v else if l = .half then .locked else l

/-- An address of the UniqueIdBlock, `0xF2` to `0xF7` (R48, R82). -/
def inUniqueIdBlock (a : Byte) : Bool := decide (0xF2 ≤ a.toNat) && decide (a.toNat ≤ 0xF7)

/-- `store(X, a, v)` (R48). -/
def Target.store (t : Target) (x : Device) (a v : Byte) : Target :=
  match x with
  | .rtc => { t with rtcmem := Memory.write t.rtcmem a v, lock := lockAfterRtcStore t.lock a v }
  | .eeprom =>
    if inUniqueIdBlock a && decide (t.lock ≠ .unlocked) then t else { t with eemem := Memory.write t.eemem a v }

/-- One data byte of a write transaction: stored at the pointer, which then advances (R47). -/
def Target.storeNext (x : Device) (t : Target) (v : Byte) : Target :=
  (t.store x (t.ptr x) v).advancePtr x

/-- The relock at the end of an EEPROM transaction that carried a data byte (R47, R50; log 20). -/
def Target.relock (t : Target) (x : Device) (ds : List Byte) : Target :=
  if x = .eeprom ∧ ds ≠ [] ∧ t.lock = .unlocked then { t with lock := .locked } else t

/-- What the bytes that arrive do: the first sets the pointer, the others are stored (R47). -/
def Target.deliver (t : Target) (x : Device) : List Byte → Target
  | [] => t
  | p :: ds => (ds.foldl (Target.storeNext x) (t.setPtr x p)).relock x ds

/-! ## The transport -/

/-- The pending transaction after an event (R34). A `QUEUE` with no open transaction adds nothing (log 15). -/
def Bus.after (b : Bus) : Event → Bus
  | .beginT a => { b with write := some (a, []) }
  | .queue v => { b with write := b.write.map fun p => (p.1, p.2 ++ [v]) }
  | .endT => { b with write := none }
  | .req a n => { b with read := some (a, n) }
  | .recv =>
    match b.read with
    | some (a, n + 2) => { b with read := some (a, n + 1) }
    | _ => { b with read := none }

/-- The environment's choices left after an event: an `END` and a `RECV` use one up, and every call that returns is
counted (R53, R44). -/
def Env.after (v : Env) (e : Event) : Env where
  delivered := if e = .endT then v.delivered.tail else v.delivered
  recvs := if e = .recv then v.recvs.tail else v.recvs
  returns := v.returns.map (· - 1)

/-- The bytes an `END` delivers: the first `j` of the pending ones (R53). -/
def Env.arriving (v : Env) (bytes : List Byte) : List Byte :=
  match v.delivered with
  | [] => bytes
  | j :: _ => bytes.take j

/-- What the environment does with the next `RECV` (R53). -/
def Env.nextRecv (v : Env) : RecvPlan := v.recvs.headD .answered

/-- The target after an `END` (R46, R47, R53). -/
def State.targetAfterEnd (s : State) : Target :=
  match s.bus.write with
  | none => s.target
  | some (a, bytes) =>
    match deviceAt s.cfg a with
    | none => s.target
    | some x => s.target.deliver x (s.env.arriving bytes)

/-- The device a `RECV` reads: the one the last `REQ` named, while it has bytes left (R34, R46). -/
def State.readDevice (s : State) : Option Device :=
  match s.bus.read with
  | some (a, _ + 1) => deviceAt s.cfg a
  | _ => none

/-- The device whose byte a `RECV` returns; none where the byte is `any8`: lost (R53), nothing to read (R44, R46, U8), or
a target unknown since a reset of a busy block (R172). -/
def State.answering (s : State) : Option Device :=
  if s.target.known then
    match s.env.nextRecv with
    | .answered => s.readDevice
    | .lost _ => none
  else none

/-- The byte a `RECV` returns (R44, R49, D18). -/
def State.received (s : State) : Byte :=
  match s.answering with
  | some x => Memory.read (s.target.mem x) (s.target.ptr x)
  | none => Config.any8 s.draws

/-- The target after a `RECV`: the pointer advances (R49); where the byte was lost, as the environment has it (R53). -/
def State.targetAfterRecv (s : State) : Target :=
  match s.readDevice with
  | none => s.target
  | some x =>
    match s.env.nextRecv with
    | .answered => s.target.advancePtr x
    | .lost true => s.target.advancePtr x
    | .lost false => s.target

/-- The target after an event: only `END` and `RECV` reach it (R40, R47, R49). -/
def State.targetAfter (s : State) : Event → Target
  | .endT => s.targetAfterEnd
  | .recv => s.targetAfterRecv
  | _ => s.target

/-! ## One event -/

/-- The leading `QUEUE` bytes of a list of events. -/
def queuedBytes : List Event → List Byte
  | .queue b :: es => b :: queuedBytes es
  | _ => []

/-- `TXBUF` after an event: a `BEGIN` loads the data bytes of the write sequence it opens (R13; log 14). -/
def State.txAfter (s : State) (trace : List Event) : Event → Buf
  | .beginT _ => s.txbuf.load (queuedBytes (trace.drop (s.seq + 2)))
  | _ => s.txbuf

/-- How many bytes the command has received before event `seq`: the index of `RXBUF` the next one goes to (R13). -/
def rxIndex (trace : List Event) (seq : Nat) : Nat := (trace.take seq).count .recv

/-- `RXBUF` after an event (R13, R101, R104). -/
def State.rxAfter (s : State) (trace : List Event) : Event → Buf
  | .recv => s.rxbuf.set (rxIndex trace s.seq) s.received
  | _ => s.rxbuf

/-- The draws made after an event (R8; log 6). -/
def State.drawsAfter (s : State) : Event → Nat
  | .recv => if s.answering = none then s.draws + 1 else s.draws
  | _ => s.draws

/-- One step of a busy block: emit event number `SEQ` of the trace, store the byte a `RECV` returned, `SEQ <- SEQ + 1`
(R104). -/
def State.emit (s : State) (trace : List Event) (e : Event) : State :=
  { s with
    seq := s.seq + 1
    txbuf := s.txAfter trace e
    rxbuf := s.rxAfter trace e
    bus := s.bus.after e
    target := s.targetAfter e
    env := s.env.after e
    draws := s.drawsAfter e
    events := s.events ++ [e] }

/-! ## Accepting and completing a command -/

/-- Command acceptance (R103): the word the host presents is latched and taken from the host. -/
def State.accept (s : State) (w : CmdWord) : State :=
  { s with
    cmd := w
    seq := 0
    status := ⟨false, false⟩
    phase := .busy
    host := s.host.tail }

/-- `RES` is written, all seven bytes at once (R14, R65). -/
def State.writeRes (s : State) (r : Buf) : State :=
  { s with res := r, resWritten := true }

/-- A fresh `any8` has been drawn (R8; log 6). -/
def State.countDraw (s : State) : State :=
  { s with draws := s.draws + 1 }

/-- `PHASE <- IDLE` (R10, R104). -/
def State.toIdle (s : State) : State :=
  { s with phase := .idle }

/-- Completion without a result: `RES` unchanged, both flags 0. -/
def finishQuiet (s : State) : State := s.clearStatus

/-- Completion with a result: `RES` written, both flags 0. -/
def finishResult (r : Buf) (s : State) : State := (s.writeRes r).clearStatus

/-- A malformed word (R63, R103, R153): accepted with an empty trace, so the same step completes it; no event, `RES`
unchanged, `STATUS.ILL <- 1`, `STATUS.RANGE <- 0`, back to `IDLE` (log 5). -/
def State.acceptMalformed (s : State) (w : CmdWord) : State :=
  (s.accept w).raiseIllegal.toIdle

/-! ## The reset input -/

/-- The reset input (R170, R22): every piece of block state at its reset value; the target is not touched (R171). A reset
of a busy block leaves the transport and the target unknown (R172): what it does with every later call is a free value, and
no byte received means anything. That no transaction is pending is R22's; that the input is released by the step that
serves it is the model's choice (log 16). -/
def State.blockReset (s : State) : State :=
  { s with
    phase := .idle
    cmd := State.reset.cmd
    seq := 0
    txbuf := State.reset.txbuf
    rxbuf := State.reset.rxbuf
    res := State.reset.res
    resWritten := false
    status := ⟨false, false⟩
    bus := ⟨none, none⟩
    target := { s.target with known := s.target.known && decide (s.phase = .idle) }
    env := if s.phase = .busy then Config.anyEnv s.draws else s.env
    resetIn := false
    draws := if s.phase = .busy then s.draws + 1 else s.draws }

/-! ## What the host reads -/

/-- The host reads `RES[i]`: only in `IDLE` (R14, R185; that a read in `BUSY` faults is the model's choice, log 17), and not
before a result was written: the spec has a model fault that read (R22, D24, U11). -/
def State.readRes (s : State) (i : Fin 7) : Except Fault Byte :=
  match s.phase with
  | .busy => .error .hostReadWhileBusy
  | .idle => if s.resWritten then .ok (s.res.get i) else .error .resNeverWritten

/-- The host reads `STATUS`: only in `IDLE` (R15, R185; that a read in `BUSY` faults is the model's choice, log 17). -/
def State.readStatus (s : State) : Except Fault Byte :=
  match s.phase with
  | .busy => .error .hostReadWhileBusy
  | .idle => .ok s.status.toByte

/-! ## Which command the next step runs -/

/-- What the next step has to do. -/
inductive Fetched where
  /-- Run one step of a command: accept it (R103) or go on with it (R104). -/
  | run (i : Instr)
  /-- The host presents a malformed word (R63). -/
  | malformed (w : CmdWord)
  /-- `IDLE`, and the host presents nothing (R10). -/
  | wait
  deriving DecidableEq, Repr

/-- A word as the next thing to do. -/
def fetchWord (w : CmdWord) : Fetched :=
  match decode w with
  | .ok i => .run i
  | .error _ => .malformed w

/-- In `IDLE` the word the host presents, in `BUSY` the latched one: the host's word is taken only in `IDLE` and not read
again (R43, R103). -/
def State.fetch (s : State) : Fetched :=
  match s.phase with
  | .busy => fetchWord s.cmd
  | .idle =>
    match s.host with
    | [] => .wait
    | w :: _ => fetchWord w

/-- A word put where the next fetch finds it: presented by the host to an idle block, the reset input not asserted
(log 12). -/
def State.present (s : State) (w : CmdWord) : State :=
  { s with phase := .idle, resetIn := false, host := w :: s.host }

end Sys2Proof.Machine
end

