-- ==== Sys2Proof/Machine/Engine.lean ====
section
/-! DEFINITION. The Register Transaction Engine: the write sequence and the read sequence (spec R100 to R102), and one step
of a command (R103, R104). -/

namespace Sys2Proof.Machine

/-- What one step answers. -/
abbrev Answer := Host.Outcome State Fault Refusal

/-- `WriteSeq(dev, ptr, [d0, .., d(k-1)])` (R100). -/
def writeSeq (c : Config) (dev : Device) (ptr : Byte) (ds : List Byte) : List Event :=
  .beginT (addrOf c dev) :: .queue ptr :: (ds.map Event.queue ++ [.endT])

/-- `ReadSeq(dev, ptr, n)` (R101). -/
def readSeq (c : Config) (dev : Device) (ptr : Byte) (n : Nat) : List Event :=
  writeSeq c dev ptr [] ++ .req (addrOf c dev) n :: List.replicate n .recv

/-- One step of the command with word `w`, trace `tr` and completion `finish` (R103, R104). In `IDLE` the command is
accepted, and completed at once if its trace is empty; in `BUSY` event number `SEQ` is emitted, or, past the last event,
the command completes. A primitive that never returns leaves the block at its `SEQ` (R44; log 10). -/
def runCommand (w : CmdWord) (tr : List Event) (finish : State → State) (s : State) : Answer :=
  match s.phase with
  | .idle => if tr.isEmpty then .next (finish (s.accept w)).toIdle else .next (s.accept w)
  | .busy =>
    match tr[s.seq]? with
    | some e => if s.env.returns = some 0 then .next s else .next (s.emit tr e)
    | none => .next (finish s).toIdle

end Sys2Proof.Machine
end

