-- ==== Sys2Proof/Machine/BcdCodec.lean ====
section
/-! DEFINITION. The BCD codec's commands DEC2BCD and BCD2DEC (spec R90, R91, R96): an empty trace, so the step that accepts
them completes them. -/

namespace Sys2Proof.Machine

/-- DEC2BCD (R90). -/
def execDec2bcd (v : Byte) (s : State) : Answer :=
  runCommand (encode (.dec2bcd v)) [] (finishResult (Buf.single (decToBcd v))) s

/-- BCD2DEC (R91). -/
def execBcd2dec (v : Byte) (s : State) : Answer :=
  runCommand (encode (.bcd2dec v)) [] (finishResult (Buf.single (bcdToDec v))) s

end Sys2Proof.Machine
end

