-- ==== Sys2Proof/Machine/IdentityAccessor.lean ====
section
/-! DEFINITION. The Identity Accessor: IDUNLOCK, MACWR, MACRD (spec R140 to R144). The block keeps no lock state: the
traces are the same whatever the target's lock holds (R16, R141). -/

namespace Sys2Proof.Machine

/-- `UNLOCK_DEV`: the RTC device (D4). -/
def unlockDev : Device := .rtc

/-- The trace of IDUNLOCK: two separate transactions (R140). -/
def idunlockTrace (c : Config) : List Event :=
  writeSeq c unlockDev Const.unlockReg [Const.unlockKey1] ++ writeSeq c unlockDev Const.unlockReg [Const.unlockKey2]

/-- IDUNLOCK (R140). -/
def execIdunlock (s : State) : Answer :=
  runCommand (encode .idunlock) (idunlockTrace s.cfg) finishQuiet s

/-- The trace of MACWR (R141). -/
def macwrTrace (c : Config) (b0 b1 b2 b3 b4 b5 : Byte) : List Event :=
  writeSeq c .eeprom Const.macWritePtr [b0, b1, b2, b3, b4, b5]

/-- MACWR (R141). -/
def execMacwr (b0 b1 b2 b3 b4 b5 : Byte) (s : State) : Answer :=
  runCommand (encode (.macwr b0 b1 b2 b3 b4 b5)) (macwrTrace s.cfg b0 b1 b2 b3 b4 b5) finishQuiet s

/-- The trace of MACRD (R142). -/
def macrdTrace (c : Config) : List Event := readSeq c .eeprom Const.macReadPtr Const.macLen

/-- The result of MACRD from the bytes received (R142). -/
def macrdResult (r : Buf) : Buf := ⟨r.b0, r.b1, r.b2, r.b3, r.b4, r.b5, 0x00#8⟩

/-- MACRD (R142). -/
def execMacrd (s : State) : Answer :=
  runCommand (encode .macrd) (macrdTrace s.cfg) (finishResult (macrdResult s.rxbuf)) s

end Sys2Proof.Machine
end

