-- ==== Sys2Proof/Machine/SramAccessor.lean ====
section
/-! DEFINITION. The SRAM Accessor: SRAMWR and SRAMRD (spec R130 to R134). The range test is made once, on the location
operand, before any event; out of range there is no event at all and `STATUS.RANGE` is set. -/

namespace Sys2Proof.Machine

/-- The trace of SRAMWR (R131). -/
def sramwrTrace (c : Config) (loc data : Byte) : List Event :=
  if inSramWindow loc then writeSeq c .rtc loc [data] else []

/-- The completion of SRAMWR (R131): `STATUS.RANGE` tells whether the location was out of range. -/
def sramwrFinish (loc : Byte) (s : State) : State :=
  if inSramWindow loc then finishQuiet s else s.raiseRange

/-- SRAMWR (R131). -/
def execSramwr (loc data : Byte) (s : State) : Answer :=
  runCommand (encode (.sramwr loc data)) (sramwrTrace s.cfg loc data) (sramwrFinish loc) s

/-- The trace of SRAMRD (R132). -/
def sramrdTrace (c : Config) (loc : Byte) : List Event :=
  if inSramWindow loc then readSeq c .rtc loc 1 else []

/-- The completion of SRAMRD (R132): in range the byte received, unchanged; out of range `RES[0] <- any8` (D9). -/
def sramrdFinish (loc : Byte) (s : State) : State :=
  if inSramWindow loc then finishResult (Buf.single s.rxbuf.b0) s
  else ((s.writeRes (Buf.single (Config.any8 s.draws))).countDraw).raiseRange

/-- SRAMRD (R132). -/
def execSramrd (loc : Byte) (s : State) : Answer :=
  runCommand (encode (.sramrd loc)) (sramrdTrace s.cfg loc) (sramrdFinish loc) s

end Sys2Proof.Machine
end

