-- ==== Sys2Proof/Machine/TimeFieldMapper.lean ====
section
/-! DEFINITION. The Time Field Mapper: SETDT, GETDT, CLKEN, CLKDIS, BATEN (spec R110 to R120). All five use the RTC
device. -/

namespace Sys2Proof.Machine

/-- `t0` to `t6` of SETDT (R110). -/
def setdtBurst (second minute hour dayOfWeek dayOfMonth month year : Byte) : List Byte :=
  [ encodeField Const.mSec second,
    encodeField Const.mMin minute,
    encodeField Const.mHour hour,
    encodeField Const.mDow dayOfWeek ||| Const.batEnBit,
    encodeField Const.mDom dayOfMonth,
    encodeField Const.mMon month,
    encodeField Const.mYear year ]

/-- `u0` of SETDT: the seconds again, clock-enable set (R110). -/
def setdtSeconds (second : Byte) : Byte := decToBcd second ||| Const.clkEnBit

/-- The trace of SETDT (R110). -/
def setdtTrace (c : Config) (second minute hour dayOfWeek dayOfMonth month year : Byte) : List Event :=
  writeSeq c .rtc c.rtcTimeBase (setdtBurst second minute hour dayOfWeek dayOfMonth month year)
    ++ writeSeq c .rtc c.rtcTimeBase [setdtSeconds second]

/-- SETDT (R110). -/
def execSetdt (second minute hour dayOfWeek dayOfMonth month year : Byte) (s : State) : Answer :=
  runCommand (encode (.setdt second minute hour dayOfWeek dayOfMonth month year))
    (setdtTrace s.cfg second minute hour dayOfWeek dayOfMonth month year) finishQuiet s

/-- The trace of GETDT (R111). -/
def getdtTrace (c : Config) : List Event := readSeq c .rtc c.rtcTimeBase Const.dtLen

/-- The result of GETDT from the bytes received (R111, R115). -/
def getdtResult (r : Buf) : Buf :=
  ⟨decodeField Const.mSec r.b0, decodeField Const.mMin r.b1, decodeField Const.mHour r.b2, decodeField Const.mDow r.b3,
    decodeField Const.mDom r.b4, decodeField Const.mMon r.b5, decodeField Const.mYear r.b6⟩

/-- GETDT (R111). -/
def execGetdt (s : State) : Answer :=
  runCommand (encode .getdt) (getdtTrace s.cfg) (finishResult (getdtResult s.rxbuf)) s

/-- A read-modify-write of one register: read it, write back what `f` makes of the byte read (R112 to R114). -/
def modifyTrace (c : Config) (ptr : Byte) (f : Byte → Byte) (rx : Buf) : List Event :=
  readSeq c .rtc ptr 1 ++ writeSeq c .rtc ptr [f rx.b0]

/-- The byte CLKEN writes back (R112). -/
def clkenByte (r : Byte) : Byte := decToBcd (decodeField Const.mSec r) ||| Const.clkEnBit

/-- CLKEN (R112). -/
def execClken (s : State) : Answer :=
  runCommand (encode .clken) (modifyTrace s.cfg s.cfg.rtcTimeBase clkenByte s.rxbuf) finishQuiet s

/-- The byte CLKDIS writes back (R113, D8). -/
def clkdisByte (r : Byte) : Byte := decToBcd (decodeField Const.mSec r) &&& 0x7F#8

/-- CLKDIS (R113). -/
def execClkdis (s : State) : Answer :=
  runCommand (encode .clkdis) (modifyTrace s.cfg s.cfg.rtcTimeBase clkdisByte s.rxbuf) finishQuiet s

/-- The byte BATEN writes back (R114). -/
def batenByte (r : Byte) : Byte := decToBcd (decodeField Const.mDow r) ||| Const.batEnBit

/-- The address of the day-of-week register (R76). -/
def dowAddr (c : Config) : Byte := c.rtcTimeBase + Const.dowOffset

/-- BATEN (R114). -/
def execBaten (s : State) : Answer :=
  runCommand (encode .baten) (modifyTrace s.cfg (dowAddr s.cfg) batenByte s.rxbuf) finishQuiet s

end Sys2Proof.Machine
end

