-- ==== Sys2Proof/Machine/Dispatch.lean ====
section
/-! DEFINITION. One step of a command, by command (spec R61, R103, R104): acceptance in IDLE, the next event or completion in
BUSY. -/

namespace Sys2Proof.Machine

/-- One step of command `i` in state `s`. -/
def exec (i : Instr) (s : State) : Host.Outcome State Fault Refusal :=
  match i with
  | .dec2bcd value => Sys2Proof.Machine.execDec2bcd value s
  | .bcd2dec value => Sys2Proof.Machine.execBcd2dec value s
  | .setdt second minute hour dayOfWeek dayOfMonth month year => Sys2Proof.Machine.execSetdt second minute hour dayOfWeek dayOfMonth month year s
  | .getdt => Sys2Proof.Machine.execGetdt s
  | .clken => Sys2Proof.Machine.execClken s
  | .clkdis => Sys2Proof.Machine.execClkdis s
  | .baten => Sys2Proof.Machine.execBaten s
  | .sramwr location data => Sys2Proof.Machine.execSramwr location data s
  | .sramrd location => Sys2Proof.Machine.execSramrd location s
  | .idunlock => Sys2Proof.Machine.execIdunlock s
  | .macwr b0 b1 b2 b3 b4 b5 => Sys2Proof.Machine.execMacwr b0 b1 b2 b3 b4 b5 s
  | .macrd => Sys2Proof.Machine.execMacrd s

end Sys2Proof.Machine
end

