-- ==== Sys2Proof/WellFormed.lean ====
section
/-! DEFINITION. When a configuration is well-formed (spec R6). A command needs no check: its operands are bytes by type
(R62); which WORDS are malformed (R63) is the decoder's answer, by name, in Sys2Proof/Decode.lean. -/

namespace Sys2Proof

/-- "exactly two fixed target addresses exist": the two differ (R6). -/
def Config.devicesDiffer (c : Config) : Bool :=
  c.rtcDevAddr != c.eepromDevAddr

/-- `RTC_TIME_BASE <= 0xF9` (R6). -/
def Config.baseFits (c : Config) : Bool :=
  decide (c.rtcTimeBase.toNat ≤ 0xF9)

/-- Whether an address of the RTC space is `UNLOCK_REG` or in the SRAM window. -/
def Config.taken (a : Nat) : Bool :=
  decide (a = Const.unlockReg.toNat) || (decide (Const.sramLo.toNat ≤ a) && decide (a ≤ Const.sramHi.toNat))

/-- The seven time registers contain neither `UNLOCK_REG` nor an address of the SRAM window (R6). -/
def Config.timeApart (c : Config) : Bool :=
  (List.range Const.dtLen).all fun i => !Config.taken (c.rtcTimeBase.toNat + i)

/-- A configuration is well-formed when all three conditions of R6 hold. -/
def Config.wf (c : Config) : Bool :=
  c.devicesDiffer && c.baseFits && c.timeApart

end Sys2Proof
end

