-- ==== Sys2Proof/Machine/Step.lean ====
section
/-! DEFINITION. One step of the machine: an ill-formed configuration is refused (spec R6); an asserted reset input resets the
block (R170); an idle block with nothing presented waits (R10); a malformed word is turned away with its flag (R63); else one
step of the presented or latched command. -/

namespace Sys2Proof.Machine

/-- One step. DESIGN CHOICE, log 16: no step asserts the reset input; a reset happens only in a state the environment hands
over with `resetIn` set, so no run from a state with it clear, `State.reset` included, contains one. -/
def step (s : State) : Host.Outcome State Fault Refusal :=
  if s.cfg.wf then
    if s.resetIn then .next s.blockReset
    else
      match s.fetch with
      | .wait => .next s
      | .malformed w => .next (s.acceptMalformed w)
      | .run i => exec i s
  else .refused .illFormedConfig

/-- `s` with the command of the table word presented by the host, so that the next step accepts it (log 12). -/
def State.withFetchWord (s : State) (nbits w : Nat) : State :=
  s.present (BitVec.ofNat 64 (w % 2 ^ nbits))

end Sys2Proof.Machine
end

