-- ==== Sys2Proof/Safety.lean ====
section
/-! DEFINITION. What claims about the machine are stated in: the trace of each command (spec R104), the invariants a run
keeps, the end of a run (R107), which bytes of the target an event can store to, and the shapes of the per-command
statements. -/

namespace Sys2Proof.Machine

/-! ## Traces -/

/-- The trace of a command, given the bytes received so far (R104): what its meaning walks. -/
def traceOf (c : Config) (rx : Buf) : Instr → List Event
  | .dec2bcd _ => []
  | .bcd2dec _ => []
  | .setdt sec mi h dow dom mo y => setdtTrace c sec mi h dow dom mo y
  | .getdt => getdtTrace c
  | .clken => modifyTrace c c.rtcTimeBase clkenByte rx
  | .clkdis => modifyTrace c c.rtcTimeBase clkdisByte rx
  | .baten => modifyTrace c (dowAddr c) batenByte rx
  | .sramwr loc d => sramwrTrace c loc d
  | .sramrd loc => sramrdTrace c loc
  | .idunlock => idunlockTrace c
  | .macwr b0 b1 b2 b3 b4 b5 => macwrTrace c b0 b1 b2 b3 b4 b5
  | .macrd => macrdTrace c

/-- The trace of a command in a state. -/
def State.traceOf (s : State) (i : Instr) : List Event := Machine.traceOf s.cfg s.rxbuf i

/-- How a command completes, given the bytes received (R14, R15, R65): what its meaning does in the completing step. -/
def finishOf (rx : Buf) : Instr → State → State
  | .dec2bcd v => finishResult (Buf.single (decToBcd v))
  | .bcd2dec v => finishResult (Buf.single (bcdToDec v))
  | .setdt _ _ _ _ _ _ _ => finishQuiet
  | .getdt => finishResult (getdtResult rx)
  | .clken => finishQuiet
  | .clkdis => finishQuiet
  | .baten => finishQuiet
  | .sramwr loc _ => sramwrFinish loc
  | .sramrd loc => sramrdFinish loc
  | .idunlock => finishQuiet
  | .macwr _ _ _ _ _ _ => finishQuiet
  | .macrd => finishResult (macrdResult rx)

/-- The number of steps a command takes from its acceptance to `IDLE`: one where the trace is empty, else acceptance, one
step an event, and the completing step (R103, R104, D25; log 11). -/
def stepCount (tr : List Event) : Nat := if tr.isEmpty then 1 else tr.length + 2

/-- The commands that have a result (R65). -/
def hasResult : Instr → Bool
  | .dec2bcd _ => true
  | .bcd2dec _ => true
  | .getdt => true
  | .sramrd _ => true
  | .macrd => true
  | .setdt _ _ _ _ _ _ _ => false
  | .clken => false
  | .clkdis => false
  | .baten => false
  | .sramwr _ _ => false
  | .idunlock => false
  | .macwr _ _ _ _ _ _ => false

/-- The commands that store no byte in the target: they move none, or write the pointer only (R38). -/
def storesNothing : Instr → Bool
  | .dec2bcd _ => true
  | .bcd2dec _ => true
  | .getdt => true
  | .sramrd _ => true
  | .macrd => true
  | .setdt _ _ _ _ _ _ _ => false
  | .clken => false
  | .clkdis => false
  | .baten => false
  | .sramwr _ _ => false
  | .idunlock => false
  | .macwr _ _ _ _ _ _ => false

/-- Whether the location operand of SRAMWR or SRAMRD is out of range (R151): no other command can raise RangeError. -/
def outOfRange : Instr → Bool
  | .sramwr loc _ => !inSramWindow loc
  | .sramrd loc => !inSramWindow loc
  | _ => false

/-! ## Words and BCD bytes -/

/-- How many operand bytes a command uses: the lowest ones (R61). -/
def operandCount : Instr → Nat
  | .dec2bcd _ => 1
  | .bcd2dec _ => 1
  | .setdt _ _ _ _ _ _ _ => 7
  | .getdt => 0
  | .clken => 0
  | .clkdis => 0
  | .baten => 0
  | .sramwr _ _ => 2
  | .sramrd _ => 1
  | .idunlock => 0
  | .macwr _ _ _ _ _ _ => 6
  | .macrd => 0

/-- How many operand bytes the command with this opcode uses; `none` for a reserved opcode (R61, R63). -/
def usedBytes (op : Nat) : Option Nat :=
  match op with
  | 0x1 => some 1
  | 0x2 => some 1
  | 0x3 => some 7
  | 0x4 => some 0
  | 0x5 => some 0
  | 0x6 => some 0
  | 0x7 => some 0
  | 0x8 => some 2
  | 0x9 => some 1
  | 0xA => some 0
  | 0xB => some 6
  | 0xC => some 0
  | _ => none

/-- A malformed word, in R63's own terms: `OP` reserved, `Z` not zero, or an unused operand byte not zero. Bits are read
by division, not by the decoder's own fields. -/
def MalformedWord (w : CmdWord) : Prop :=
  match usedBytes (w.toNat / 2 ^ 60) with
  | none => True
  | some n => w.toNat / 2 ^ 56 % 16 ≠ 0 ∨ ∃ j, n ≤ j ∧ j < 7 ∧ w.toNat / 2 ^ (8 * j) % 256 ≠ 0

/-- A valid BCD byte: both nibbles 0 to 9 (R9, R72). -/
def validBcd (b : Byte) : Bool := decide (b.toNat / 16 ≤ 9) && decide (b.toNat % 16 ≤ 9)

/-! ## Invariants -/

/-- The pending transaction a list of events leaves, from none open (R34). -/
def busAfter (es : List Event) : Bus := es.foldl Bus.after ⟨none, none⟩

/-- The sequencer's state is that of a command part-way through its trace: in `IDLE` no transaction is pending; in `BUSY`
the latched word is a command with events to emit, `SEQ` is within its trace, and the transport holds what the events before `SEQ` left
(R10 to R12, R17, R104). -/
def Sequenced (s : State) : Prop :=
  match s.phase with
  | .idle => s.bus = ⟨none, none⟩
  | .busy =>
    ∃ i, decode s.cmd = .ok i ∧ s.traceOf i ≠ [] ∧ s.seq ≤ (s.traceOf i).length ∧
      s.bus = busAfter ((s.traceOf i).take s.seq)

/-- Both byte stores are in canonical form. -/
def MemoryCanonical (s : State) : Prop :=
  Memory.wf s.target.rtcmem = true ∧ Memory.wf s.target.eemem = true

/-- The flags' discipline: never both set (R156); both clear while a command runs (R15, R103). -/
def FlagDiscipline (s : State) : Prop :=
  ¬(s.status.range = true ∧ s.status.ill = true) ∧ (s.phase = .busy → s.status = ⟨false, false⟩)

/-- No failure is injected: every byte arrives, every `RECV` is answered, every call returns, and the target is known
(R53, R172). -/
def NoFailure (s : State) : Prop :=
  s.env = ⟨[], [], none⟩ ∧ s.target.known = true

/-- The host presents `i` to an idle block whose configuration is well-formed and whose reset input is not asserted. -/
def Presents (i : Instr) (s : State) : Prop :=
  s.cfg.wf = true ∧ s.resetIn = false ∧ s.phase = .idle ∧ s.host.head? = some (encode i)

/-- A run is over: nothing is left to present and the block is in `IDLE` (R107). DESIGN CHOICE, log 24: where a reset is
still to be served the run is not over, and it is over after a reset that abandoned the last command, although that
command did not complete (R172). -/
def State.finished (s : State) : Bool :=
  decide (s.phase = .idle) && s.host.isEmpty && !s.resetIn

/-- The state after a list of events, emitted as part of trace `tr`. -/
def State.emitAll (s : State) (tr es : List Event) : State := es.foldl (fun t e => t.emit tr e) s

/-! ## Which bytes of the target an event can store to -/

/-- The bytes an `END` stores: the device, the address of the first and how many, from the pending transaction and the
bytes that arrive (R46, R47, R53). The same address, device and bytes that `State.targetAfterEnd` uses. -/
def State.endStores (s : State) : Option (Device × Byte × Nat) :=
  match s.bus.write with
  | none => none
  | some (a, bytes) =>
    match deviceAt s.cfg a, s.env.arriving bytes with
    | some x, p :: ds => some (x, p, ds.length)
    | _, _ => none

/-- The lock after bytes are stored in the RTC space at consecutive addresses from `p` on (R47, R48). -/
def lockAlong (l : Lock) (p : Byte) : List Byte → Lock
  | [] => l
  | d :: ds => lockAlong (lockAfterRtcStore l p d) (p + 1#8) ds

/-- The commands that write back a byte they read: event number 7 of their traces depends on it (R104, R112 to R114). -/
def writesBack : Instr → Bool
  | .clken => true
  | .clkdis => true
  | .baten => true
  | .dec2bcd _ => false
  | .bcd2dec _ => false
  | .setdt _ _ _ _ _ _ _ => false
  | .getdt => false
  | .sramwr _ _ => false
  | .sramrd _ => false
  | .idunlock => false
  | .macwr _ _ _ _ _ _ => false
  | .macrd => false

/-- Address `a` of device `x` is among the bytes stored by event `e` in state `s`: consecutive addresses from the pointer,
modulo 256. -/
def State.storesAt (s : State) (e : Event) (x : Device) (a : Byte) : Bool :=
  match e with
  | .endT =>
    match s.endStores with
    | some (y, p, n) => decide (x = y) && decide ((a - p).toNat < n)
    | none => false
  | _ => false

/-- The registers a command may store to: the ones its rule names (R31, R32, R71). -/
def mayStore (c : Config) (x : Device) (a : Byte) : Instr → Bool
  | .setdt _ _ _ _ _ _ _ => decide (x = .rtc) && decide ((a - c.rtcTimeBase).toNat < Const.dtLen)
  | .clken => decide (x = .rtc) && decide (a = c.rtcTimeBase)
  | .clkdis => decide (x = .rtc) && decide (a = c.rtcTimeBase)
  | .baten => decide (x = .rtc) && decide (a = c.rtcTimeBase + 3#8)
  | .sramwr loc _ => decide (x = .rtc) && decide (a = loc) && inSramWindow loc
  | .idunlock => decide (x = .rtc) && decide (a = 0x09#8)
  | .macwr _ _ _ _ _ _ => decide (x = .eeprom) && decide (0xF2 ≤ a.toNat) && decide (a.toNat ≤ 0xF7)
  | .dec2bcd _ => false
  | .bcd2dec _ => false
  | .getdt => false
  | .sramrd _ => false
  | .macrd => false

/-- The byte of device `x` at address `a`. -/
def State.byteAt (s : State) (x : Device) (a : Byte) : Byte := Memory.read (s.target.mem x) a

/-! ## Shapes of the per-command statements -/

/-- `t` is `s` with the command accepted (R103). -/
def acceptedAs (i : Instr) (s : State) : State :=
  { s with cmd := encode i, seq := 0, status := ⟨false, false⟩, phase := .busy, host := s.host.tail }

/-- `t` is `s` completed with the given flag and result: `RES` unchanged where there is no result (R14, R15, R104). -/
def completedAs (range : Bool) (res : Option Buf) (s : State) : State :=
  { s with
    phase := .idle
    status := ⟨range, false⟩
    res := res.getD s.res
    resWritten := s.resWritten || res.isSome }

/-- What emitting event `e` does inside the block (R12, R104): `SEQ` counts it, it is the one event put out, and nothing
the host sees changes. -/
def EmitsEvent (e : Event) (s t : State) : Prop :=
  t.seq = s.seq + 1 ∧ t.events = s.events ++ [e] ∧ t.phase = .busy ∧ t.cmd = s.cmd ∧ t.res = s.res ∧
    t.resWritten = s.resWritten ∧ t.status = s.status ∧ t.cfg = s.cfg ∧ t.host = s.host ∧ t.resetIn = s.resetIn

/-- The steps of a command that uses the bus, in every state: accepted in `IDLE`; then, as long as primitives return, it
emits the events of `tr` in order; then it completes with result `res`, both flags 0. -/
def WalksTrace (i : Instr) (tr : Config → Buf → List Event) (res : Buf → Option Buf) : Prop :=
  ∀ s : State,
    (s.phase = .idle → exec i s = .next (acceptedAs i s)) ∧
    (∀ e, s.phase = .busy → s.env.returns ≠ some 0 → (tr s.cfg s.rxbuf)[s.seq]? = some e →
      ∃ t, exec i s = .next t ∧ EmitsEvent e s t) ∧
    (s.phase = .busy → s.seq = (tr s.cfg s.rxbuf).length →
      exec i s = .next (completedAs false (res s.rxbuf) s))

end Sys2Proof.Machine
end

