-- ==== Sys2Proof/Certificates/Slice0/Obligations.lean ====
section
/-! DEFINITION. The statements for the provers. Each says which rule of the spec it formalises; where a clause rests on a
choice of the model, the docstring names the log entry. -/

open Sys2Proof Sys2Proof.Machine

/-! ## Encoding -/

/-- R60 to R63: decoding an encoded command gives it back, every operand at every value. -/
def Obligations.DecodeOfEncodeIsTheCommand : Prop :=
  ∀ i : Instr, decode (encode i) = .ok i

/-- R60 to R63: a word that decodes is the word of its command, so no bit of it is dropped. -/
def Obligations.EncodeOfDecodeIsTheWord : Prop :=
  ∀ (w : CmdWord) (i : Instr), decode w = .ok i → encode i = w

/-- R64: exactly one row of the opcode table matches a word and the word decodes to that row's command, or none does and
the word is malformed; a row's mask leaves exactly the used operand bytes free. -/
def Obligations.DecodingMatchesExactlyOneTableRow : Prop :=
  (∀ w : CmdWord,
    (∃ r ∈ opcodeTable, r.fits w = true ∧ (∀ r' ∈ opcodeTable, r'.fits w = true → r' = r) ∧
      ∃ i, decode w = .ok i ∧ mnemonicOf i = r.mnemonic) ∨
    ((∀ r ∈ opcodeTable, r.fits w = false) ∧ MalformedWord w ∧ ∃ e, decode w = .error e)) ∧
  ∀ i : Instr, ∃ r ∈ opcodeTable, r.mnemonic = mnemonicOf i ∧
    r.mask = BitVec.ofNat 64 (2 ^ 64 - 2 ^ (8 * operandCount i))

/-- R63, first sentence: a word is rejected exactly when `OP` is reserved, `Z` is not zero, or an unused operand byte is
not zero. -/
def Obligations.MalformedWordsAreExactlyTheRejectedOnes : Prop :=
  ∀ w : CmdWord, (∃ e, decode w = .error e) ↔ MalformedWord w

/-- R67: the worked encodings, both ways. -/
def Obligations.WorkedEncodingsAgree : Prop :=
  encode (.setdt 30 15 9 3 20 6 24) = 0x3018061403090F1E#64 ∧
  decode 0x3018061403090F1E#64 = .ok (.setdt 30 15 9 3 20 6 24) ∧
  encode .getdt = 0x4000000000000000#64 ∧
  decode 0x4000000000000000#64 = .ok .getdt ∧
  encode (.sramwr 0x30 0xAB) = 0x800000000000AB30#64 ∧
  decode 0x800000000000AB30#64 = .ok (.sramwr 0x30 0xAB) ∧
  encode (.sramrd 0x30) = 0x9000000000000030#64 ∧
  decode 0x9000000000000030#64 = .ok (.sramrd 0x30) ∧
  encode (.macwr 0x00 0x04 0xA3 0x12 0x34 0x56) = 0xB000563412A30400#64 ∧
  decode 0xB000563412A30400#64 = .ok (.macwr 0x00 0x04 0xA3 0x12 0x34 0x56) ∧
  encode (.dec2bcd 59) = 0x100000000000003B#64 ∧
  decode 0x100000000000003B#64 = .ok (.dec2bcd 59)

/-! ## BCD codec -/

/-- R90: DEC2BCD completes in the step that accepts it, with `RES[0] = trunc8((v/10)*16 + v%10)`, `RES[1..6] = 0x00`, both
flags 0, no event, and nothing else of the machine changed. `trunc8`, which matters above 159, is the spec's own reading
(D7). -/
def Obligations.Dec2bcdWritesTheBcdByte : Prop :=
  ∀ (v : Byte) (s : State), s.phase = .idle →
    exec (.dec2bcd v) s = .next { s with
      cmd := encode (.dec2bcd v)
      seq := 0
      host := s.host.tail
      status := ⟨false, false⟩
      res := ⟨BitVec.ofNat 8 (v.toNat / 10 * 16 + v.toNat % 10), 0, 0, 0, 0, 0, 0⟩
      resWritten := true }

/-- R91: BCD2DEC completes in the step that accepts it, with `RES[0] = (v/16)*10 + v%16` (at most 165, no truncation),
`RES[1..6] = 0x00`, both flags 0, no event, and nothing else of the machine changed. -/
def Obligations.Bcd2decWritesTheDecimalValue : Prop :=
  ∀ (v : Byte) (s : State), s.phase = .idle →
    ∃ r : Byte, r.toNat = v.toNat / 16 * 10 + v.toNat % 16 ∧ r.toNat ≤ 165 ∧
      exec (.bcd2dec v) s = .next { s with
        cmd := encode (.bcd2dec v)
        seq := 0
        host := s.host.tail
        status := ⟨false, false⟩
        res := ⟨r, 0, 0, 0, 0, 0, 0⟩
        resWritten := true }

/-- R92: the two round-trip laws, the count of valid BCD bytes, the one-to-one map onto them, and the rule's own examples
outside the ranges. -/
def Obligations.BcdRoundTripLaws : Prop :=
  (∀ v : Byte, v.toNat ≤ 99 → bcdToDec (decToBcd v) = v) ∧
  (∀ b : Byte, validBcd b = true → decToBcd (bcdToDec b) = b) ∧
  ((List.range 256).filter fun n => validBcd (BitVec.ofNat 8 n)).length = 100 ∧
  (∀ v : Byte, v.toNat ≤ 99 → validBcd (decToBcd v) = true) ∧
  (∀ v v' : Byte, v.toNat ≤ 99 → v'.toNat ≤ 99 → decToBcd v = decToBcd v' → v = v') ∧
  (∀ b : Byte, validBcd b = true → ∃ v : Byte, v.toNat ≤ 99 ∧ decToBcd v = b) ∧
  bcdToDec (decToBcd 100) = 100 ∧ bcdToDec (decToBcd 160) = 0 ∧ decToBcd (bcdToDec 0x1A) = 0x20

/-- R97: what decode followed by re-encode makes of a byte up to `0x7F`. -/
def Obligations.NormalisingAByte : Prop :=
  (∀ x : Byte, x.toNat ≤ 0x7F → validBcd x = true → decToBcd (bcdToDec x) = x) ∧
  (∀ x : Byte, x.toNat ≤ 0x7F → 10 ≤ x.toNat % 16 →
    (decToBcd (bcdToDec x)).toNat = (x.toNat / 16 + 1) * 16 + (x.toNat % 16 - 10)) ∧
  decToBcd (bcdToDec 0x0A) = 0x10 ∧ decToBcd (bcdToDec 0x1F) = 0x25 ∧ decToBcd (bcdToDec 0x6F) = 0x75 ∧
  (∀ x : Byte, 0x7A ≤ x.toNat → x.toNat ≤ 0x7F →
    80 ≤ (bcdToDec x).toNat ∧ (bcdToDec x).toNat ≤ 85 ∧ 0x80 ≤ (decToBcd (bcdToDec x)).toNat ∧
      (decToBcd (bcdToDec x)).toNat ≤ 0x85 ∧ (decToBcd (bcdToDec x)).getLsbD 7 = true) ∧
  (∀ x : Byte, x.toNat ≤ 0x07 → decToBcd (bcdToDec x) = x)

/-- R83: for every legal value the write mask of its register removes nothing. -/
def Obligations.WriteMasksHoldEveryLegalValue : Prop :=
  (∀ v : Byte, v.toNat ≤ 59 → encodeField Const.mSec v = decToBcd v ∧ encodeField Const.mMin v = decToBcd v) ∧
  (∀ v : Byte, v.toNat ≤ 23 → encodeField Const.mHour v = decToBcd v) ∧
  (∀ v : Byte, 1 ≤ v.toNat → v.toNat ≤ 7 → encodeField Const.mDow v = decToBcd v) ∧
  (∀ v : Byte, 1 ≤ v.toNat → v.toNat ≤ 31 → encodeField Const.mDom v = decToBcd v) ∧
  (∀ v : Byte, 1 ≤ v.toNat → v.toNat ≤ 12 → encodeField Const.mMon v = decToBcd v) ∧
  (∀ v : Byte, v.toNat ≤ 99 → encodeField Const.mYear v = decToBcd v)

/-- R112, R113, R114 and R110, the corner cases: what CLKEN, CLKDIS and BATEN write back for every byte read, and that the
second byte of SETDT differs from the first in bit 7 only. -/
def Obligations.BytesWrittenBackKeepTheData : Prop :=
  (∀ r : Byte, (clkenByte r).getLsbD 7 = true ∧ (clkdisByte r).getLsbD 7 = false) ∧
  (∀ r : Byte, validBcd (r &&& 0x7F#8) = true →
    clkenByte r = (r &&& 0x7F#8) ||| 0x80#8 ∧ clkdisByte r = r &&& 0x7F#8) ∧
  (∀ r : Byte, batenByte r = (r &&& 0x07#8) ||| 0x08#8) ∧
  (∀ v : Byte, setdtSeconds v &&& 0x7F#8 = encodeField Const.mSec v)

/-! ## Time Field Mapper, SRAM Accessor, Identity Accessor: the steps of each command -/

/-- R110: SETDT. -/
def Obligations.SetdtWritesTheTimeRegisters : Prop :=
  ∀ sec mi h dow dom mo y : Byte,
    WalksTrace (.setdt sec mi h dow dom mo y)
      (fun c _ =>
        [ .beginT c.rtcDevAddr, .queue c.rtcTimeBase,
          .queue (decToBcd sec &&& 0x7F#8), .queue (decToBcd mi &&& 0x7F#8), .queue (decToBcd h &&& 0x3F#8),
          .queue ((decToBcd dow &&& 0x07#8) ||| 0x08#8), .queue (decToBcd dom &&& 0x3F#8),
          .queue (decToBcd mo &&& 0x1F#8), .queue (decToBcd y), .endT,
          .beginT c.rtcDevAddr, .queue c.rtcTimeBase, .queue (decToBcd sec ||| 0x80#8), .endT ])
      (fun _ => none)

/-- R111: GETDT. -/
def Obligations.GetdtReadsTheTimeRegisters : Prop :=
  WalksTrace .getdt
    (fun c _ =>
      [ .beginT c.rtcDevAddr, .queue c.rtcTimeBase, .endT, .req c.rtcDevAddr 7,
        .recv, .recv, .recv, .recv, .recv, .recv, .recv ])
    (fun r => some
      ⟨bcdToDec (r.b0 &&& 0x7F#8), bcdToDec (r.b1 &&& 0x7F#8), bcdToDec (r.b2 &&& 0x3F#8), bcdToDec (r.b3 &&& 0x07#8),
        bcdToDec (r.b4 &&& 0x3F#8), bcdToDec (r.b5 &&& 0x1F#8), bcdToDec (r.b6 &&& 0xFF#8)⟩)

/-- R112: CLKEN. -/
def Obligations.ClkenRewritesTheSecondsWithBitSevenSet : Prop :=
  WalksTrace .clken
    (fun c r =>
      [ .beginT c.rtcDevAddr, .queue c.rtcTimeBase, .endT, .req c.rtcDevAddr 1, .recv,
        .beginT c.rtcDevAddr, .queue c.rtcTimeBase,
        .queue (decToBcd (bcdToDec (r.b0 &&& 0x7F#8)) ||| 0x80#8), .endT ])
    (fun _ => none)

/-- R113: CLKDIS. The mask that clears bit 7 for every byte read is the spec's own decision (D8). -/
def Obligations.ClkdisRewritesTheSecondsWithBitSevenClear : Prop :=
  WalksTrace .clkdis
    (fun c r =>
      [ .beginT c.rtcDevAddr, .queue c.rtcTimeBase, .endT, .req c.rtcDevAddr 1, .recv,
        .beginT c.rtcDevAddr, .queue c.rtcTimeBase,
        .queue (decToBcd (bcdToDec (r.b0 &&& 0x7F#8)) &&& 0x7F#8), .endT ])
    (fun _ => none)

/-- R114: BATEN. -/
def Obligations.BatenRewritesTheDayOfWeekWithBitThreeSet : Prop :=
  WalksTrace .baten
    (fun c r =>
      [ .beginT c.rtcDevAddr, .queue (c.rtcTimeBase + 3#8), .endT, .req c.rtcDevAddr 1, .recv,
        .beginT c.rtcDevAddr, .queue (c.rtcTimeBase + 3#8),
        .queue (decToBcd (bcdToDec (r.b0 &&& 0x07#8)) ||| 0x08#8), .endT ])
    (fun _ => none)

/-- R130, R131: SRAMWR, in range and out of range. -/
def Obligations.SramwrWritesOnlyInsideTheWindow : Prop :=
  ∀ loc data : Byte,
    (0x20 ≤ loc.toNat ∧ loc.toNat ≤ 0x5F →
      WalksTrace (.sramwr loc data)
        (fun c _ => [ .beginT c.rtcDevAddr, .queue loc, .queue data, .endT ]) (fun _ => none)) ∧
    (¬(0x20 ≤ loc.toNat ∧ loc.toNat ≤ 0x5F) → ∀ s : State, s.phase = .idle →
      exec (.sramwr loc data) s = .next { s with
        cmd := encode (.sramwr loc data)
        seq := 0
        host := s.host.tail
        status := ⟨true, false⟩ })

/-- R130, R132: SRAMRD, in range and out of range. The byte `Config.any8 s.draws` is `any8`: nothing is known of it
(log 6). That it is a fresh draw with no event is the spec's decision (D9). -/
def Obligations.SramrdReadsOnlyInsideTheWindow : Prop :=
  ∀ loc : Byte,
    (0x20 ≤ loc.toNat ∧ loc.toNat ≤ 0x5F →
      WalksTrace (.sramrd loc)
        (fun c _ => [ .beginT c.rtcDevAddr, .queue loc, .endT, .req c.rtcDevAddr 1, .recv ])
        (fun r => some ⟨r.b0, 0, 0, 0, 0, 0, 0⟩)) ∧
    (¬(0x20 ≤ loc.toNat ∧ loc.toNat ≤ 0x5F) → ∀ s : State, s.phase = .idle →
      exec (.sramrd loc) s = .next { s with
        cmd := encode (.sramrd loc)
        seq := 0
        host := s.host.tail
        status := ⟨true, false⟩
        res := ⟨Config.any8 s.draws, 0, 0, 0, 0, 0, 0⟩
        resWritten := true
        draws := s.draws + 1 })

/-- R140: IDUNLOCK. That the control register is under the RTC address is the spec's decision (D4). -/
def Obligations.IdunlockWritesTheTwoKeys : Prop :=
  WalksTrace .idunlock
    (fun c _ =>
      [ .beginT c.rtcDevAddr, .queue 0x09#8, .queue 0x55#8, .endT,
        .beginT c.rtcDevAddr, .queue 0x09#8, .queue 0xAA#8, .endT ])
    (fun _ => none)

/-- R141: MACWR. That the first byte of the list goes out first is the spec's decision (D17). -/
def Obligations.MacwrWritesTheSixBytes : Prop :=
  ∀ b0 b1 b2 b3 b4 b5 : Byte,
    WalksTrace (.macwr b0 b1 b2 b3 b4 b5)
      (fun c _ =>
        [ .beginT c.eepromDevAddr, .queue 0xF2#8, .queue b0, .queue b1, .queue b2, .queue b3, .queue b4, .queue b5,
          .endT ])
      (fun _ => none)

/-- R142: MACRD. That the read starts at `0xF2` is the spec's decision (D5). -/
def Obligations.MacrdReadsTheSixBytes : Prop :=
  WalksTrace .macrd
    (fun c _ =>
      [ .beginT c.eepromDevAddr, .queue 0xF2#8, .endT, .req c.eepromDevAddr 6,
        .recv, .recv, .recv, .recv, .recv, .recv ])
    (fun r => some ⟨r.b0, r.b1, r.b2, r.b3, r.b4, r.b5, 0x00#8⟩)

/-! ## Command acceptance and execution -/

/-- R103: in `IDLE` a presented well-formed word is latched, `SEQ` and both flags are cleared and the block is `BUSY`, or,
with an empty trace, the same step also completes it; in `BUSY` nothing is accepted. The handshake is the spec's own
decision (D21); a malformed word has a statement of its own. -/
def Obligations.AcceptanceLatchesTheCommandWord : Prop :=
  (∀ (s : State) (w : CmdWord) (i : Instr), s.cfg.wf = true → s.resetIn = false → s.phase = .idle →
    s.host.head? = some w → decode w = .ok i →
      (s.traceOf i ≠ [] → step s = .next { s with
        cmd := w, seq := 0, status := ⟨false, false⟩, phase := .busy, host := s.host.tail }) ∧
      (s.traceOf i = [] → ∃ t, step s = .next t ∧ t.phase = .idle ∧ t.cmd = w ∧ t.seq = 0 ∧ t.host = s.host.tail ∧
        t.events = s.events ∧ t.status = ⟨outOfRange i, false⟩)) ∧
  (∀ s t : State, Sequenced s → s.phase = .busy → s.resetIn = false → step s = .next t →
    t.cmd = s.cmd ∧ t.host = s.host)

/-- A step runs the decoded command: the presented word in `IDLE`, the latched one in `BUSY`; an idle block with nothing
presented waits (R10, R43, R103). -/
def Obligations.StepRunsTheDecodedCommand : Prop :=
  (∀ (s : State) (i : Instr), s.cfg.wf = true → s.resetIn = false → s.phase = .busy → decode s.cmd = .ok i →
    step s = exec i s) ∧
  (∀ (s : State) (w : CmdWord) (i : Instr), s.cfg.wf = true → s.resetIn = false → s.phase = .idle →
    s.host.head? = some w → decode w = .ok i → step s = exec i s) ∧
  (∀ s : State, s.cfg.wf = true → s.resetIn = false → s.phase = .idle → s.host = [] → step s = .next s)

/-- R104: one step emits event number `SEQ`, stores the byte returned if it is a `RECV`, and counts it; when `SEQ` equals
the trace's length the step completes the command; the trace lengths are those of the rule's table; no trace length, and no
event but the last data byte of CLKEN, CLKDIS and BATEN, depends on a received byte. One event a step is the spec's own
granularity (D25). -/
def Obligations.ExecutionFollowsTheTrace : Prop :=
  (∀ (i : Instr) (s : State) (e : Event), s.phase = .busy → s.env.returns ≠ some 0 → (s.traceOf i)[s.seq]? = some e →
    ∃ t, exec i s = .next t ∧ EmitsEvent e s t ∧
      t.rxbuf = (if e = .recv then s.rxbuf.set (((s.traceOf i).take s.seq).count .recv) s.received else s.rxbuf)) ∧
  (∀ (i : Instr) (s : State), s.phase = .busy → s.seq = (s.traceOf i).length →
    ∃ t, exec i s = .next t ∧ t.phase = .idle ∧ t.seq = s.seq ∧ t.events = s.events ∧
      t.status = ⟨outOfRange i, false⟩ ∧ (hasResult i = false → t.res = s.res)) ∧
  (∀ (c : Config) (rx : Buf) (v d a1 a2 a3 a4 a5 a6 : Byte),
    (traceOf c rx (.dec2bcd v)).length = 0 ∧ (traceOf c rx (.bcd2dec v)).length = 0 ∧
    (traceOf c rx (.setdt v a1 a2 a3 a4 a5 a6)).length = 14 ∧ (traceOf c rx .getdt).length = 11 ∧
    (traceOf c rx .clken).length = 9 ∧ (traceOf c rx .clkdis).length = 9 ∧ (traceOf c rx .baten).length = 9 ∧
    (traceOf c rx (.sramwr v d)).length = (if 0x20 ≤ v.toNat ∧ v.toNat ≤ 0x5F then 4 else 0) ∧
    (traceOf c rx (.sramrd v)).length = (if 0x20 ≤ v.toNat ∧ v.toNat ≤ 0x5F then 5 else 0) ∧
    (traceOf c rx .idunlock).length = 8 ∧ (traceOf c rx (.macwr v a1 a2 a3 a4 a5)).length = 9 ∧
    (traceOf c rx .macrd).length = 10) ∧
  (∀ (c : Config) (rx rx' : Buf) (i : Instr) (k : Nat),
    (traceOf c rx i).length = (traceOf c rx' i).length ∧
    (¬(k = 7 ∧ (i = .clken ∨ i = .clkdis ∨ i = .baten)) → (traceOf c rx i)[k]? = (traceOf c rx' i)[k]?))

/-- R35: every trace is a concatenation of write units `W(a, p, ds)` and of read units `W(a, p, []) Q(a, n)`, with the two
device addresses only and the counts the rule lists, all of which occur. -/
def Obligations.TracesAreTransactionUnits : Prop :=
  (∀ (c : Config) (rx : Buf) (i : Instr), ∃ us : List (List Event), traceOf c rx i = us.flatten ∧
    ∀ u ∈ us,
      (∃ (a : DevAddr) (p : Byte) (ds : List Byte), (a = c.rtcDevAddr ∨ a = c.eepromDevAddr) ∧ ds.length ∈ [0, 1, 6, 7] ∧
        u = .beginT a :: .queue p :: (ds.map Event.queue ++ [.endT])) ∨
      (∃ (a : DevAddr) (p : Byte) (n : Nat), (a = c.rtcDevAddr ∨ a = c.eepromDevAddr) ∧ n ∈ [1, 6, 7] ∧
        u = [Event.beginT a, .queue p, .endT, .req a n] ++ List.replicate n .recv)) ∧
  (∀ k ∈ [0, 1, 6, 7], ∀ (c : Config) (rx : Buf), ∃ (i : Instr) (a : DevAddr) (p : Byte) (ds : List Byte),
    ds.length = k ∧ (Event.beginT a :: .queue p :: (ds.map Event.queue ++ [.endT])) <:+: traceOf c rx i) ∧
  (∀ n ∈ [1, 6, 7], ∀ (c : Config) (rx : Buf), ∃ (i : Instr) (a : DevAddr),
    (Event.req a n :: List.replicate n .recv) <:+: traceOf c rx i)

/-- R104, R107 with R186's fairness premise: every command the host presents to an idle block completes, in
`stepCount` steps, having emitted exactly its trace, with the flags of R15 and `RES` written only if it has a result. That
acceptance and completion are steps of their own is the model's reading (log 11). -/
def Obligations.EveryCommandRunsToCompletion : Prop :=
  ∀ (i : Instr) (s : State), Presents i s → s.env.returns = none →
    ∃ t : State, Host.Core.run core (stepCount (s.traceOf i)) s = .next t ∧ t.phase = .idle ∧ t.host = s.host.tail ∧
      t.events = s.events ++ t.traceOf i ∧ t.status = ⟨outOfRange i, false⟩ ∧
      (hasResult i = false → t.res = s.res) ∧ (hasResult i = true → t.resWritten = true) ∧ t.cfg = s.cfg

/-- R44, R107: a primitive that never returns leaves the block `BUSY` at its `SEQ` for ever. That the step answers the
same state is the model's form of "for ever" (log 10). -/
def Obligations.ABlockedPrimitiveHangsTheBlock : Prop :=
  ∀ (s : State) (i : Instr) (n : Nat), s.cfg.wf = true → s.resetIn = false → s.phase = .busy → decode s.cmd = .ok i →
    s.seq < (s.traceOf i).length → s.env.returns = some 0 → Host.Core.run core n s = .next s

/-- R44: the trace is the same whether or not a step failed. Two states that agree on the block's sequencing, whatever bytes
they received, whatever the target holds, whatever was lost and whatever the transport has pending, emit the same event;
event number 7 of CLKEN, CLKDIS and BATEN is the one that carries a byte made from a received one (R104), and is then a
`QUEUE` in both. -/
def Obligations.AFailureDoesNotChangeTheTrace : Prop :=
  ∀ (i : Instr) (s s' : State), s.cfg = s'.cfg → s.phase = s'.phase → s.seq = s'.seq → s.cmd = s'.cmd →
    s.status = s'.status → s.events = s'.events → s.env.returns = s'.env.returns →
    ∃ t t', exec i s = .next t ∧ exec i s' = .next t' ∧ t.phase = t'.phase ∧ t.seq = t'.seq ∧
      t.cmd = t'.cmd ∧ t.status = t'.status ∧ t.env.returns = t'.env.returns ∧
      (¬(s.phase = .busy ∧ s.seq = 7 ∧ writesBack i = true) → t.events = t'.events) ∧
      (s.rxbuf = s'.rxbuf → t.events = t'.events) ∧
      (s.phase = .busy → s.seq = 7 → writesBack i = true →
        (t.events = s.events ∧ t'.events = s.events) ∨
        ∃ b b', t.events = s.events ++ [.queue b] ∧ t'.events = s.events ++ [.queue b'])

/-- R150, R157, R158: no command faults, refuses or checks a mode; every command answers a next state in every state. -/
def Obligations.NoCommandStops : Prop :=
  ∀ (i : Instr) (s : State), ∃ t, exec i s = .next t

/-! ## Transport and target -/

/-- R47, R48, R50: what an `END` with every byte delivered does to the target. -/
def Obligations.EndStoresThePendingBytes : Prop :=
  ∀ (s : State) (a : DevAddr) (p : Byte) (ds : List Byte) (x : Device), MemoryCanonical s →
    s.bus.write = some (a, p :: ds) → deviceAt s.cfg a = some x → s.env.delivered = [] → ds.length ≤ 256 →
    s.targetAfterEnd.ptr x = p + BitVec.ofNat 8 ds.length ∧
    (∀ y, y ≠ x → s.targetAfterEnd.ptr y = s.target.ptr y ∧ s.targetAfterEnd.mem y = s.target.mem y) ∧
    (∀ b : Byte, Memory.read (s.targetAfterEnd.mem x) b =
      if h : (b - p).toNat < ds.length then
        if x = .rtc ∨ s.target.lock = .unlocked ∨ ¬(0xF2 ≤ b.toNat ∧ b.toNat ≤ 0xF7) then ds[(b - p).toNat]
        else s.byteAt x b
      else s.byteAt x b) ∧
    (x = .eeprom → s.targetAfterEnd.lock =
      if ds ≠ [] ∧ s.target.lock = .unlocked then .locked else s.target.lock) ∧
    (x = .rtc → s.targetAfterEnd.lock = lockAlong s.target.lock p ds)

/-- R53: only the first `j` pending bytes are delivered; `j = 0` leaves the target alone, `j = 1` moves the pointer only,
and from `k + 1` on it is as with no failure. That the EEPROM relocks after a part of a write, once a data byte arrived, is
the model's reading (log 9). -/
def Obligations.AFailedWriteDeliversAPrefix : Prop :=
  ∀ (s : State) (a : DevAddr) (p : Byte) (ds : List Byte) (x : Device) (j : Nat) (js : List Nat),
    s.bus.write = some (a, p :: ds) → deviceAt s.cfg a = some x → s.env.delivered = j :: js →
    s.targetAfterEnd = s.target.deliver x ((p :: ds).take j) ∧
    (j = 0 → s.targetAfterEnd = s.target) ∧
    (j = 1 → s.targetAfterEnd = s.target.setPtr x p) ∧
    (ds.length + 1 ≤ j → s.targetAfterEnd = s.target.deliver x (p :: ds))

/-- R50: the lock machine's table, the start value, and the two ways back to `LOCKED`. The relock at the end of an EEPROM
write is from general knowledge, as the rule itself says (G4; log 20). -/
def Obligations.TheLockMachine : Prop :=
  State.reset.target.lock = .locked ∧
  (∀ v : Byte, lockStep .locked v = if v = 0x55#8 then .half else .locked) ∧
  (∀ v : Byte, lockStep .half v = if v = 0xAA#8 then .unlocked else if v = 0x55#8 then .half else .locked) ∧
  (∀ v : Byte, lockStep .unlocked v = .unlocked) ∧
  (∀ (t : Target) (v : Byte), (t.store .rtc 0x09#8 v).lock = lockStep t.lock v) ∧
  (∀ (t : Target) (a v : Byte), a ≠ 0x09#8 →
    (t.store .rtc a v).lock = if t.lock = .half then .locked else t.lock) ∧
  (∀ (t : Target) (p d : Byte) (ds : List Byte), t.lock = .unlocked → (t.deliver .eeprom (p :: d :: ds)).lock = .locked) ∧
  (∀ (t : Target) (p : Byte), (t.deliver .eeprom [p]).lock = t.lock)

/-- R49: after `REQ(a, n)` the `i`-th `RECV` returns the byte at the pointer, which then advances modulo 256; reads change
no byte and not the lock. -/
def Obligations.RecvReturnsTheByteAtThePointer : Prop :=
  ∀ (s : State) (tr : List Event) (a : DevAddr) (n i : Nat) (x : Device), NoFailure s → deviceAt s.cfg a = some x →
    i ≤ n →
    (i < n → (s.emitAll tr (.req a n :: List.replicate i .recv)).received =
      s.byteAt x (s.target.ptr x + BitVec.ofNat 8 i)) ∧
    (s.emitAll tr (.req a n :: List.replicate i .recv)).target.ptr x = s.target.ptr x + BitVec.ofNat 8 i ∧
    (∀ y, (s.emitAll tr (.req a n :: List.replicate i .recv)).target.mem y = s.target.mem y) ∧
    (s.emitAll tr (.req a n :: List.replicate i .recv)).target.lock = s.target.lock

/-- R53, second half: a lost `RECV` returns `any8`, a fresh draw of the opaque value (log 6), and changes no byte and not the
lock; whether the pointer of the device read moves is the environment's choice (log 8). -/
def Obligations.ALostRecvReturnsAny8 : Prop :=
  ∀ (s : State) (tr : List Event) (moves : Bool) (plans : List RecvPlan), s.env.recvs = .lost moves :: plans →
    s.received = Config.any8 s.draws ∧ (s.emit tr .recv).draws = s.draws + 1 ∧
    (s.emit tr .recv).env.recvs = plans ∧
    (s.emit tr .recv).rxbuf = s.rxbuf.set ((tr.take s.seq).count .recv) (Config.any8 s.draws) ∧
    (∀ x, (s.emit tr .recv).target.mem x = s.target.mem x ∧
      (s.emit tr .recv).target.ptr x =
        if moves = true ∧ s.readDevice = some x then s.target.ptr x + 1#8 else s.target.ptr x) ∧
    (s.emit tr .recv).target.lock = s.target.lock

/-- R13: a `BEGIN` loads `TXBUF` with the bytes the transaction it opens will queue after the pointer; the bytes past them
keep their value. That this happens at the `BEGIN` is the model's choice (log 14). -/
def Obligations.BeginLoadsTheBurstIntoTxbuf : Prop :=
  ∀ (i : Instr) (s : State) (a : DevAddr), s.phase = .busy → s.env.returns ≠ some 0 →
    (s.traceOf i)[s.seq]? = some (.beginT a) →
    ∃ t, exec i s = .next t ∧ ∀ k : Fin 7,
      ((∀ j, j ≤ k.val → ∃ b, (s.traceOf i)[s.seq + 2 + j]? = some (.queue b)) →
        (s.traceOf i)[s.seq + 2 + k.val]? = some (.queue (t.txbuf.get k))) ∧
      ((∃ j, j ≤ k.val ∧ ∀ b, (s.traceOf i)[s.seq + 2 + j]? ≠ some (.queue b)) → t.txbuf.get k = s.txbuf.get k)

/-- R51: a byte stored to an RTC address is the byte the next read of it receives. -/
def Obligations.ALocationKeepsTheLastByteStored : Prop :=
  ∀ (s : State) (a v : Byte) (tr : List Event), MemoryCanonical s → NoFailure s →
    (s.emitAll tr (writeSeq s.cfg .rtc a [v] ++ writeSeq s.cfg .rtc a [] ++ [Event.req s.cfg.rtcDevAddr 1])).received = v

/-! ## Whole commands on the reference target -/

/-- R39, R110, R116, R120, R184: between its two transactions SETDT leaves the new time with the clock disabled, all seven
registers written; after the second the clock is enabled, the battery enabled and the hour bits clear; no other RTC byte and no EEPROM byte changes. -/
def Obligations.SetdtLeavesClockAndBatteryEnabled : Prop :=
  ∀ (s : State) (sec mi h dow dom mo y : Byte), Presents (.setdt sec mi h dow dom mo y) s → NoFailure s →
    MemoryCanonical s →
    ∃ m t : State, Host.Core.run core 11 s = .next m ∧ Host.Core.run core 16 s = .next t ∧
      m.byteAt .rtc s.cfg.rtcTimeBase = decToBcd sec &&& 0x7F#8 ∧
      (m.byteAt .rtc s.cfg.rtcTimeBase).getLsbD 7 = false ∧
      m.byteAt .rtc (s.cfg.rtcTimeBase + 1#8) = decToBcd mi &&& 0x7F#8 ∧
      m.byteAt .rtc (s.cfg.rtcTimeBase + 2#8) = decToBcd h &&& 0x3F#8 ∧
      m.byteAt .rtc (s.cfg.rtcTimeBase + 3#8) = (decToBcd dow &&& 0x07#8) ||| 0x08#8 ∧
      m.byteAt .rtc (s.cfg.rtcTimeBase + 4#8) = decToBcd dom &&& 0x3F#8 ∧
      m.byteAt .rtc (s.cfg.rtcTimeBase + 5#8) = decToBcd mo &&& 0x1F#8 ∧
      m.byteAt .rtc (s.cfg.rtcTimeBase + 6#8) = decToBcd y ∧
      t.byteAt .rtc s.cfg.rtcTimeBase = decToBcd sec ||| 0x80#8 ∧
      t.byteAt .rtc (s.cfg.rtcTimeBase + 1#8) = decToBcd mi &&& 0x7F#8 ∧
      t.byteAt .rtc (s.cfg.rtcTimeBase + 2#8) = decToBcd h &&& 0x3F#8 ∧
      t.byteAt .rtc (s.cfg.rtcTimeBase + 3#8) = (decToBcd dow &&& 0x07#8) ||| 0x08#8 ∧
      t.byteAt .rtc (s.cfg.rtcTimeBase + 4#8) = decToBcd dom &&& 0x3F#8 ∧
      t.byteAt .rtc (s.cfg.rtcTimeBase + 5#8) = decToBcd mo &&& 0x1F#8 ∧
      t.byteAt .rtc (s.cfg.rtcTimeBase + 6#8) = decToBcd y ∧
      (∀ a : Byte, 7 ≤ (a - s.cfg.rtcTimeBase).toNat → t.byteAt .rtc a = s.byteAt .rtc a) ∧
      (∀ a : Byte, t.byteAt .eeprom a = s.byteAt .eeprom a)

/-- R118: SETDT followed by GETDT reads the fields back, for fields inside the documented ranges, and leaves the seconds
register's bit 7 set; dayOfWeek 8 or 9 does not read back. -/
def Obligations.SetThenGetReadsBack : Prop :=
  ∀ (s : State) (sec mi h dow dom mo y : Byte), Presents (.setdt sec mi h dow dom mo y) s → NoFailure s →
    MemoryCanonical s → s.host.tail.head? = some (encode .getdt) →
    sec.toNat ≤ 59 → mi.toNat ≤ 59 → h.toNat ≤ 23 → 1 ≤ dom.toNat → dom.toNat ≤ 31 → 1 ≤ mo.toNat → mo.toNat ≤ 12 →
    y.toNat ≤ 99 → 1 ≤ dow.toNat → dow.toNat ≤ 9 →
    ∃ t u : State, Host.Core.run core 16 s = .next t ∧ Host.Core.run core 13 t = .next u ∧ u.phase = .idle ∧
      (u.byteAt .rtc s.cfg.rtcTimeBase).getLsbD 7 = true ∧
      (dow.toNat ≤ 7 → u.res = ⟨sec, mi, h, dow, dom, mo, y⟩) ∧
      (8 ≤ dow.toNat → u.res.b3 ≠ dow)

/-- R119: CLKEN and CLKDIS set and clear the top bit of the seconds register, and keep the seconds value when the stored
low seven bits are valid BCD; BATEN sets bit 3 of the day-of-week register and keeps its low three bits. -/
def Obligations.ClockAndBatteryCommandsKeepTheData : Prop :=
  ∀ s : State, NoFailure s → MemoryCanonical s →
    (Presents .clken s → ∃ t : State, Host.Core.run core 11 s = .next t ∧
      (t.byteAt .rtc s.cfg.rtcTimeBase).getLsbD 7 = true ∧
      (validBcd (s.byteAt .rtc s.cfg.rtcTimeBase &&& 0x7F#8) = true →
        bcdToDec (t.byteAt .rtc s.cfg.rtcTimeBase &&& 0x7F#8) = bcdToDec (s.byteAt .rtc s.cfg.rtcTimeBase &&& 0x7F#8))) ∧
    (Presents .clkdis s → ∃ t : State, Host.Core.run core 11 s = .next t ∧
      (t.byteAt .rtc s.cfg.rtcTimeBase).getLsbD 7 = false ∧
      (validBcd (s.byteAt .rtc s.cfg.rtcTimeBase &&& 0x7F#8) = true →
        bcdToDec (t.byteAt .rtc s.cfg.rtcTimeBase &&& 0x7F#8) = bcdToDec (s.byteAt .rtc s.cfg.rtcTimeBase &&& 0x7F#8))) ∧
    (Presents .baten s → ∃ t : State, Host.Core.run core 11 s = .next t ∧
      (t.byteAt .rtc (s.cfg.rtcTimeBase + 3#8)).getLsbD 3 = true ∧
      t.byteAt .rtc (s.cfg.rtcTimeBase + 3#8) &&& 0x07#8 = s.byteAt .rtc (s.cfg.rtcTimeBase + 3#8) &&& 0x07#8)

/-- R133: SRAMWR followed by SRAMRD of the same location returns the byte, for every in-range location and every byte. -/
def Obligations.SramWriteThenReadReturnsTheByte : Prop :=
  ∀ (s : State) (loc data : Byte), Presents (.sramwr loc data) s → NoFailure s → MemoryCanonical s →
    s.host.tail.head? = some (encode (.sramrd loc)) → 0x20 ≤ loc.toNat → loc.toNat ≤ 0x5F →
    ∃ t u : State, Host.Core.run core 6 s = .next t ∧ Host.Core.run core 7 t = .next u ∧ u.phase = .idle ∧
      u.res = ⟨data, 0, 0, 0, 0, 0, 0⟩ ∧ u.status = ⟨false, false⟩

/-- R143: IDUNLOCK, MACWR, MACRD returns the six bytes written, whatever the lock was before. The lock machine is the
reference target's (log 20). -/
def Obligations.UnlockWriteReadReturnsTheAddress : Prop :=
  ∀ (s : State) (b0 b1 b2 b3 b4 b5 : Byte), Presents .idunlock s → NoFailure s → MemoryCanonical s →
    s.host.tail.take 2 = [encode (.macwr b0 b1 b2 b3 b4 b5), encode .macrd] →
    ∃ t u v : State, Host.Core.run core 10 s = .next t ∧ Host.Core.run core 11 t = .next u ∧
      Host.Core.run core 12 u = .next v ∧ v.phase = .idle ∧ t.target.lock = .unlocked ∧ u.target.lock = .locked ∧
      v.res = ⟨b0, b1, b2, b3, b4, b5, 0⟩

/-- R143, R141, R48: MACWR while the unique-ID block is not unlocked emits its trace and leaves the whole EEPROM space
as it was. -/
def Obligations.MacwrWithoutUnlockIsIgnored : Prop :=
  ∀ (s : State) (b0 b1 b2 b3 b4 b5 : Byte), Presents (.macwr b0 b1 b2 b3 b4 b5) s → NoFailure s → MemoryCanonical s →
    s.target.lock ≠ .unlocked →
    ∃ t : State, Host.Core.run core 11 s = .next t ∧ t.phase = .idle ∧ t.status = ⟨false, false⟩ ∧
      t.events = s.events ++ t.traceOf (.macwr b0 b1 b2 b3 b4 b5) ∧
      (∀ a : Byte, t.byteAt .eeprom a = s.byteAt .eeprom a) ∧ t.target.lock = s.target.lock

/-! ## Invariants -/

/-- Every step keeps both byte stores in canonical form. -/
def Obligations.StepKeepsMemoryCanonical : Prop :=
  ∀ s t : State, MemoryCanonical s → step s = .next t → MemoryCanonical t

/-- R10 to R12, R17, R104: every step keeps the sequencer part-way through the trace of the command it holds, and the
transport holding exactly what the events so far left pending. -/
def Obligations.StepKeepsTheSequencer : Prop :=
  ∀ s t : State, Sequenced s → step s = .next t → Sequenced t

/-- R15, R103, R156: every step keeps the flags' discipline: never both set, both clear while a command runs. -/
def Obligations.StepKeepsFlagDiscipline : Prop :=
  ∀ s t : State, Sequenced s → FlagDiscipline s → step s = .next t → FlagDiscipline t

/-- The state after reset meets the three invariants and has a well-formed configuration, and, nothing being presented
(log 12), it waits for ever. -/
def Obligations.ResetMeetsTheInvariants : Prop :=
  MemoryCanonical State.reset ∧ Sequenced State.reset ∧ FlagDiscipline State.reset ∧ State.reset.cfg.wf = true ∧
  ∀ n, Host.Core.run core n State.reset = .next State.reset

/-- R22: the values the rule states, and that `RES` cannot be read before a result was written. They are the spec's own
decision (D12, D24); the values the rule leaves open are not stated here (logs 3, 4). -/
def Obligations.StateAfterReset : Prop :=
  State.reset.phase = .idle ∧ State.reset.seq = 0 ∧ State.reset.status = ⟨false, false⟩ ∧
  State.reset.bus = ⟨none, none⟩ ∧ State.reset.target.lock = .locked ∧
  ∀ i, State.reset.readRes i = .error .resNeverWritten

/-- R5: no step changes the configuration. R104: a step emits at most one event; that one event is one step is the spec's own
granularity (D25; logs 11, 18), and a model may fuse events. R41: it comes after all earlier ones. -/
def Obligations.ConfigurationIsFixedAndEventsOnlyGrow : Prop :=
  ∀ s t : State, step s = .next t →
    t.cfg = s.cfg ∧ (t.events = s.events ∨ ∃ e, t.events = s.events ++ [e])

/-! ## Whole-machine rules -/

/-- R15, R151, R156: in every state a run can reach, what a step leaves in `STATUS`: the range flag exactly for an SRAMWR
or SRAMRD out of range, the illegal flag exactly for a malformed word, neither while a command runs or after any other;
waiting changes nothing. That a malformed word is run to its flag, and not refused, is the model's choice (log 5). -/
def Obligations.StatusTellsTheLastCommand : Prop :=
  ∀ s t : State, Sequenced s → s.resetIn = false → step s = .next t →
    (∀ i, s.phase = .idle → s.fetch = .run i → t.status = ⟨outOfRange i, false⟩) ∧
    (∀ w, s.phase = .idle → s.fetch = .malformed w → t.status = ⟨false, true⟩) ∧
    (s.fetch = .wait → t.status = s.status) ∧
    (s.phase = .busy → t.phase = .idle → t.status = ⟨false, false⟩) ∧
    (s.phase = .busy → t.phase = .busy → t.status = s.status)

/-- R63, R153: a malformed word emits no event, leaves `RES` and the target alone, sets the illegal flag only and leaves the
block in `IDLE`. The spec also has a model refuse such a word; this model takes the effect (log 5). -/
def Obligations.AMalformedWordOnlySetsTheFlag : Prop :=
  ∀ (s : State) (w : CmdWord), s.cfg.wf = true → s.resetIn = false → s.phase = .idle → s.host.head? = some w →
    MalformedWord w →
    ∃ t, step s = .next t ∧ t.events = s.events ∧ t.res = s.res ∧ t.resWritten = s.resWritten ∧
      t.status = ⟨false, true⟩ ∧ t.phase = .idle ∧ t.host = s.host.tail ∧ t.target = s.target ∧ t.bus = s.bus

/-- R6: a configuration is refused exactly when one of the three conditions fails; the suggested values meet them. The
last two conditions and the refusal are the spec's own decision (D6). -/
def Obligations.IllFormedConfigurationsAreRefused : Prop :=
  (∀ s : State, step s = .refused .illFormedConfig ↔
    ¬(s.cfg.rtcDevAddr ≠ s.cfg.eepromDevAddr ∧ s.cfg.rtcTimeBase.toNat ≤ 0xF9 ∧
      ∀ i, i < 7 → s.cfg.rtcTimeBase.toNat + i ≠ 0x09 ∧
        ¬(0x20 ≤ s.cfg.rtcTimeBase.toNat + i ∧ s.cfg.rtcTimeBase.toNat + i ≤ 0x5F))) ∧
  Config.suggested.wf = true

/-- R170, R171: the reset input puts the block to its reset values and touches neither the target's bytes, pointers and
lock nor the configuration; afterwards the block emits nothing until a word is presented. The reset is the spec's own
decision (D12). That a reset of a busy block leaves no transaction pending too, and that the step which serves the input
releases it, is log 16. -/
def Obligations.TheResetInputResetsTheBlockOnly : Prop :=
  ∀ s : State, s.cfg.wf = true → s.resetIn = true →
    ∃ t, step s = .next t ∧ t.phase = .idle ∧ t.seq = 0 ∧ t.status = ⟨false, false⟩ ∧ t.resWritten = false ∧
      t.events = s.events ∧ t.cfg = s.cfg ∧ t.host = s.host ∧
      t.bus = ⟨none, none⟩ ∧
      (∀ x, t.target.mem x = s.target.mem x ∧ t.target.ptr x = s.target.ptr x) ∧ t.target.lock = s.target.lock ∧
      (s.phase = .idle → t.target = s.target) ∧
      (s.host = [] → ∀ n, Host.Core.run core n t = .next t)

/-- R172: a reset of a busy block abandons the command, and from then on the transport and the target are unknown: what the
transport does with later calls, whether they return among it, is the free value `Config.anyEnv`, also where the block was
reset out of a hang, and every byte received is `any8` (log 16). -/
def Obligations.AResetOfABusyBlockLosesTheTarget : Prop :=
  (∀ s t : State, s.resetIn = true → s.phase = .busy → step s = .next t →
    t.phase = .idle ∧ t.events = s.events ∧ t.target.known = false ∧ t.env = Config.anyEnv s.draws ∧
      t.draws = s.draws + 1) ∧
  (∀ s t : State, s.target.known = false → step s = .next t → t.target.known = false) ∧
  (∀ s : State, s.target.known = false → s.received = Config.any8 s.draws)

/-- R14, R15, R22, R185: what the host's reads answer: no result before one was written, and bits 7 to 2 of `STATUS` as 0.
That a read in `BUSY`, which the spec only forbids the host, faults is the model's choice (log 17). -/
def Obligations.HostReadsOnlyInIdle : Prop :=
  (∀ (s : State) (i : Fin 7), s.phase = .busy →
    s.readRes i = .error .hostReadWhileBusy ∧ s.readStatus = .error .hostReadWhileBusy) ∧
  (∀ (s : State) (i : Fin 7), s.phase = .idle → s.resWritten = false → s.readRes i = .error .resNeverWritten) ∧
  (∀ (s : State) (i : Fin 7), s.phase = .idle → s.resWritten = true → s.readRes i = .ok (s.res.get i)) ∧
  (∀ s : State, s.phase = .idle → ∃ b : Byte, s.readStatus = .ok b ∧ b.getLsbD 0 = s.status.range ∧
    b.getLsbD 1 = s.status.ill ∧ ∀ k, 2 ≤ k → b.getLsbD k = false)

/-! ## Frames -/

/-- What one step of any command leaves alone, and when each piece of state may change (R10 to R17, R40, R49, R104). That
`TXBUF` changes at a `BEGIN` is the model's choice (log 14); `draws` is the model's own (log 6). Which bytes an `END` stores
is `OnlyDeliveredBytesAreStored`. -/
def Obligations.ExecFrame : Prop :=
  ∀ (i : Instr) (s t : State), exec i s = .next t →
    t.cfg = s.cfg ∧ t.resetIn = s.resetIn ∧ t.target.known = s.target.known ∧
    (t.phase ≠ s.phase → (s.phase = .idle ∧ s.traceOf i ≠ []) ∨ (s.phase = .busy ∧ (s.traceOf i).length ≤ s.seq)) ∧
    (t.seq ≠ s.seq → (s.phase = .idle ∧ t.seq = 0) ∨
      (s.phase = .busy ∧ s.seq < (s.traceOf i).length ∧ t.seq = s.seq + 1)) ∧
    (t.cmd ≠ s.cmd ∨ t.host ≠ s.host → s.phase = .idle) ∧
    (t.res ≠ s.res ∨ t.resWritten ≠ s.resWritten → t.phase = .idle ∧ hasResult i = true) ∧
    (t.status ≠ s.status → s.phase = .idle ∨ t.phase = .idle) ∧
    (t.txbuf ≠ s.txbuf → s.phase = .busy ∧ ∃ a, (s.traceOf i)[s.seq]? = some (.beginT a)) ∧
    (t.rxbuf ≠ s.rxbuf → s.phase = .busy ∧ (s.traceOf i)[s.seq]? = some .recv) ∧
    (t.target ≠ s.target → s.phase = .busy ∧
      ((s.traceOf i)[s.seq]? = some .endT ∨ (s.traceOf i)[s.seq]? = some .recv)) ∧
    ((s.traceOf i)[s.seq]? = some .recv → (∀ x, t.target.mem x = s.target.mem x ∧
      (t.target.ptr x ≠ s.target.ptr x → s.readDevice = some x ∧ t.target.ptr x = s.target.ptr x + 1#8)) ∧
      t.target.lock = s.target.lock) ∧
    (t.draws ≠ s.draws → t.draws = s.draws + 1 ∧
      ((s.phase = .busy ∧ (s.traceOf i)[s.seq]? = some .recv ∧ s.answering = none) ∨
        (t.phase = .idle ∧ ∃ loc, i = .sramrd loc ∧ inSramWindow loc = false))) ∧
    (t.bus ≠ s.bus ∨ t.env ≠ s.env ∨ t.events ≠ s.events → s.phase = .busy ∧ s.seq < (s.traceOf i).length)

/-- R46, R47, R53: one step of any command stores only to the addresses its `END` delivers to: from the pending pointer on,
as many as data bytes arrive. Every other byte of both spaces reads as before. -/
def Obligations.OnlyDeliveredBytesAreStored : Prop :=
  ∀ (i : Instr) (s t : State) (x : Device) (a : Byte), s.target.known = true → exec i s = .next t →
    (∀ e, s.phase = .busy → (s.traceOf i)[s.seq]? = some e → s.storesAt e x a = false) →
    t.byteAt x a = s.byteAt x a

/-- R31, R32, R38, R71: one step of a command changes no byte outside the registers its rule names: SETDT the seven time
registers, CLKEN and CLKDIS the seconds, BATEN the day of week, SRAMWR its location, IDUNLOCK `0x09`, MACWR `0xF2` to
`0xF7` of the EEPROM space, the others none. -/
def Obligations.CommandsKeepToTheirRegisters : Prop :=
  ∀ (i : Instr) (s t : State) (x : Device) (a : Byte), s.cfg.wf = true → Sequenced s → s.target.known = true →
    (s.phase = .busy → decode s.cmd = .ok i) → exec i s = .next t → mayStore s.cfg x a i = false →
    t.byteAt x a = s.byteAt x a

/-- R38, R40, R49: DEC2BCD, BCD2DEC, GETDT, SRAMRD and MACRD change no byte of either space and not the lock. -/
def Obligations.ReadingCommandsStoreNothing : Prop :=
  ∀ (i : Instr) (s t : State), storesNothing i = true → Sequenced s → s.target.known = true →
    (s.phase = .busy → decode s.cmd = .ok i) → exec i s = .next t →
    (∀ (x : Device) (a : Byte), t.byteAt x a = s.byteAt x a) ∧ t.target.lock = s.target.lock

/-- R134, as far as it holds on the reference target: in a well-formed configuration SRAMWR changes no time register, not
the unlock register, and does not take the lock out of `LOCKED` or `UNLOCKED` (a half lock it drops, R48). -/
def Obligations.SramwrTouchesNoTimeRegister : Prop :=
  ∀ (s t : State) (loc data : Byte), s.cfg.wf = true → Sequenced s → s.target.known = true →
    (s.phase = .busy → decode s.cmd = .ok (.sramwr loc data)) → exec (.sramwr loc data) s = .next t →
    (∀ k : Nat, k < 7 → t.byteAt .rtc (s.cfg.rtcTimeBase + BitVec.ofNat 8 k) =
      s.byteAt .rtc (s.cfg.rtcTimeBase + BitVec.ofNat 8 k)) ∧
    t.byteAt .rtc 0x09#8 = s.byteAt .rtc 0x09#8 ∧
    (s.target.lock ≠ .half → t.target.lock = s.target.lock)
end

