-- ==== Sys2Proof/Laws/Encoding.lean ====
section
/-! SUPPORT. The fields of a laid-out command word (spec R60, R62). -/

namespace Sys2Proof

theorem toNat_append_add {n m : Nat} (x : BitVec n) (y : BitVec m) : (x ++ y).toNat = x.toNat * 2 ^ m + y.toNat := by
  rw [BitVec.toNat_append, ← Nat.shiftLeft_add_eq_or_of_lt y.isLt, Nat.shiftLeft_eq]

/-- The word as a number: each field at its place. -/
theorem layout_toNat (op : BitVec 4) (b6 b5 b4 b3 b2 b1 b0 : Byte) :
    (layout op b6 b5 b4 b3 b2 b1 b0).toNat = op.toNat * 2 ^ 60 + b6.toNat * 2 ^ 48 + b5.toNat * 2 ^ 40 +
      b4.toNat * 2 ^ 32 + b3.toNat * 2 ^ 24 + b2.toNat * 2 ^ 16 + b1.toNat * 2 ^ 8 + b0.toNat := by
  simp only [layout, toNat_append_add, BitVec.toNat_ofNat]
  omega

/-- Reading a field of a laid-out word gives the field. -/
theorem fields_layout (op : BitVec 4) (b6 b5 b4 b3 b2 b1 b0 : Byte) :
    opField (layout op b6 b5 b4 b3 b2 b1 b0) = op ∧
    zField (layout op b6 b5 b4 b3 b2 b1 b0) = 0#4 ∧
    operandByte (layout op b6 b5 b4 b3 b2 b1 b0) 0 = b0 ∧
    operandByte (layout op b6 b5 b4 b3 b2 b1 b0) 1 = b1 ∧
    operandByte (layout op b6 b5 b4 b3 b2 b1 b0) 2 = b2 ∧
    operandByte (layout op b6 b5 b4 b3 b2 b1 b0) 3 = b3 ∧
    operandByte (layout op b6 b5 b4 b3 b2 b1 b0) 4 = b4 ∧
    operandByte (layout op b6 b5 b4 b3 b2 b1 b0) 5 = b5 ∧
    operandByte (layout op b6 b5 b4 b3 b2 b1 b0) 6 = b6 := by
  have := op.isLt
  have := b6.isLt; have := b5.isLt; have := b4.isLt; have := b3.isLt
  have := b2.isLt; have := b1.isLt; have := b0.isLt
  refine ⟨?_, ?_, ?_, ?_, ?_, ?_, ?_, ?_, ?_⟩ <;> apply BitVec.eq_of_toNat_eq <;>
    simp only [opField, zField, operandByte, BitVec.extractLsb'_toNat, layout_toNat, Nat.shiftRight_eq_div_pow,
      BitVec.toNat_ofNat] <;> omega

end Sys2Proof
end

