-- ==== Sys2Proof/Laws/State.lean ====
section
/-! SUPPORT. One lemma per field per named update of the state, true by rfl, so that no proof unfolds a record update. -/

namespace Sys2Proof.Machine

/-! ## `accept` -/

@[simp] theorem State.accept_cfg (s : State) (w : CmdWord) : (s.accept w).cfg = s.cfg := rfl
@[simp] theorem State.accept_phase (s : State) (w : CmdWord) : (s.accept w).phase = .busy := rfl
@[simp] theorem State.accept_cmd (s : State) (w : CmdWord) : (s.accept w).cmd = w := rfl
@[simp] theorem State.accept_seq (s : State) (w : CmdWord) : (s.accept w).seq = 0 := rfl
@[simp] theorem State.accept_txbuf (s : State) (w : CmdWord) : (s.accept w).txbuf = s.txbuf := rfl
@[simp] theorem State.accept_rxbuf (s : State) (w : CmdWord) : (s.accept w).rxbuf = s.rxbuf := rfl
@[simp] theorem State.accept_res (s : State) (w : CmdWord) : (s.accept w).res = s.res := rfl
@[simp] theorem State.accept_resWritten (s : State) (w : CmdWord) : (s.accept w).resWritten = s.resWritten := rfl
@[simp] theorem State.accept_status (s : State) (w : CmdWord) : (s.accept w).status = ⟨false, false⟩ := rfl
@[simp] theorem State.accept_bus (s : State) (w : CmdWord) : (s.accept w).bus = s.bus := rfl
@[simp] theorem State.accept_target (s : State) (w : CmdWord) : (s.accept w).target = s.target := rfl
@[simp] theorem State.accept_env (s : State) (w : CmdWord) : (s.accept w).env = s.env := rfl
@[simp] theorem State.accept_host (s : State) (w : CmdWord) : (s.accept w).host = s.host.tail := rfl
@[simp] theorem State.accept_resetIn (s : State) (w : CmdWord) : (s.accept w).resetIn = s.resetIn := rfl
@[simp] theorem State.accept_draws (s : State) (w : CmdWord) : (s.accept w).draws = s.draws := rfl
@[simp] theorem State.accept_events (s : State) (w : CmdWord) : (s.accept w).events = s.events := rfl

/-! ## `emit` -/

@[simp] theorem State.emit_cfg (s : State) (tr : List Event) (e : Event) : (s.emit tr e).cfg = s.cfg := rfl
@[simp] theorem State.emit_phase (s : State) (tr : List Event) (e : Event) : (s.emit tr e).phase = s.phase := rfl
@[simp] theorem State.emit_cmd (s : State) (tr : List Event) (e : Event) : (s.emit tr e).cmd = s.cmd := rfl
@[simp] theorem State.emit_seq (s : State) (tr : List Event) (e : Event) : (s.emit tr e).seq = s.seq + 1 := rfl
@[simp] theorem State.emit_txbuf (s : State) (tr : List Event) (e : Event) : (s.emit tr e).txbuf = s.txAfter tr e := rfl
@[simp] theorem State.emit_rxbuf (s : State) (tr : List Event) (e : Event) : (s.emit tr e).rxbuf = s.rxAfter tr e := rfl
@[simp] theorem State.emit_res (s : State) (tr : List Event) (e : Event) : (s.emit tr e).res = s.res := rfl
@[simp] theorem State.emit_resWritten (s : State) (tr : List Event) (e : Event) : (s.emit tr e).resWritten = s.resWritten := rfl
@[simp] theorem State.emit_status (s : State) (tr : List Event) (e : Event) : (s.emit tr e).status = s.status := rfl
@[simp] theorem State.emit_bus (s : State) (tr : List Event) (e : Event) : (s.emit tr e).bus = s.bus.after e := rfl
@[simp] theorem State.emit_target (s : State) (tr : List Event) (e : Event) : (s.emit tr e).target = s.targetAfter e := rfl
@[simp] theorem State.emit_env (s : State) (tr : List Event) (e : Event) : (s.emit tr e).env = s.env.after e := rfl
@[simp] theorem State.emit_host (s : State) (tr : List Event) (e : Event) : (s.emit tr e).host = s.host := rfl
@[simp] theorem State.emit_resetIn (s : State) (tr : List Event) (e : Event) : (s.emit tr e).resetIn = s.resetIn := rfl
@[simp] theorem State.emit_draws (s : State) (tr : List Event) (e : Event) : (s.emit tr e).draws = s.drawsAfter e := rfl
@[simp] theorem State.emit_events (s : State) (tr : List Event) (e : Event) : (s.emit tr e).events = s.events ++ [e] := rfl

/-! ## `writeRes` -/

@[simp] theorem State.writeRes_cfg (s : State) (r : Buf) : (s.writeRes r).cfg = s.cfg := rfl
@[simp] theorem State.writeRes_phase (s : State) (r : Buf) : (s.writeRes r).phase = s.phase := rfl
@[simp] theorem State.writeRes_cmd (s : State) (r : Buf) : (s.writeRes r).cmd = s.cmd := rfl
@[simp] theorem State.writeRes_seq (s : State) (r : Buf) : (s.writeRes r).seq = s.seq := rfl
@[simp] theorem State.writeRes_txbuf (s : State) (r : Buf) : (s.writeRes r).txbuf = s.txbuf := rfl
@[simp] theorem State.writeRes_rxbuf (s : State) (r : Buf) : (s.writeRes r).rxbuf = s.rxbuf := rfl
@[simp] theorem State.writeRes_res (s : State) (r : Buf) : (s.writeRes r).res = r := rfl
@[simp] theorem State.writeRes_resWritten (s : State) (r : Buf) : (s.writeRes r).resWritten = true := rfl
@[simp] theorem State.writeRes_status (s : State) (r : Buf) : (s.writeRes r).status = s.status := rfl
@[simp] theorem State.writeRes_bus (s : State) (r : Buf) : (s.writeRes r).bus = s.bus := rfl
@[simp] theorem State.writeRes_target (s : State) (r : Buf) : (s.writeRes r).target = s.target := rfl
@[simp] theorem State.writeRes_env (s : State) (r : Buf) : (s.writeRes r).env = s.env := rfl
@[simp] theorem State.writeRes_host (s : State) (r : Buf) : (s.writeRes r).host = s.host := rfl
@[simp] theorem State.writeRes_resetIn (s : State) (r : Buf) : (s.writeRes r).resetIn = s.resetIn := rfl
@[simp] theorem State.writeRes_draws (s : State) (r : Buf) : (s.writeRes r).draws = s.draws := rfl
@[simp] theorem State.writeRes_events (s : State) (r : Buf) : (s.writeRes r).events = s.events := rfl

/-! ## `writeStatus` -/

@[simp] theorem State.writeStatus_cfg (s : State) (range ill : Bool) : (s.writeStatus range ill).cfg = s.cfg := rfl
@[simp] theorem State.writeStatus_phase (s : State) (range ill : Bool) : (s.writeStatus range ill).phase = s.phase := rfl
@[simp] theorem State.writeStatus_cmd (s : State) (range ill : Bool) : (s.writeStatus range ill).cmd = s.cmd := rfl
@[simp] theorem State.writeStatus_seq (s : State) (range ill : Bool) : (s.writeStatus range ill).seq = s.seq := rfl
@[simp] theorem State.writeStatus_txbuf (s : State) (range ill : Bool) : (s.writeStatus range ill).txbuf = s.txbuf := rfl
@[simp] theorem State.writeStatus_rxbuf (s : State) (range ill : Bool) : (s.writeStatus range ill).rxbuf = s.rxbuf := rfl
@[simp] theorem State.writeStatus_res (s : State) (range ill : Bool) : (s.writeStatus range ill).res = s.res := rfl
@[simp] theorem State.writeStatus_resWritten (s : State) (range ill : Bool) : (s.writeStatus range ill).resWritten = s.resWritten := rfl
@[simp] theorem State.writeStatus_status (s : State) (range ill : Bool) : (s.writeStatus range ill).status = ⟨range, ill⟩ := rfl
@[simp] theorem State.writeStatus_bus (s : State) (range ill : Bool) : (s.writeStatus range ill).bus = s.bus := rfl
@[simp] theorem State.writeStatus_target (s : State) (range ill : Bool) : (s.writeStatus range ill).target = s.target := rfl
@[simp] theorem State.writeStatus_env (s : State) (range ill : Bool) : (s.writeStatus range ill).env = s.env := rfl
@[simp] theorem State.writeStatus_host (s : State) (range ill : Bool) : (s.writeStatus range ill).host = s.host := rfl
@[simp] theorem State.writeStatus_resetIn (s : State) (range ill : Bool) : (s.writeStatus range ill).resetIn = s.resetIn := rfl
@[simp] theorem State.writeStatus_draws (s : State) (range ill : Bool) : (s.writeStatus range ill).draws = s.draws := rfl
@[simp] theorem State.writeStatus_events (s : State) (range ill : Bool) : (s.writeStatus range ill).events = s.events := rfl

/-! ## `clearStatus` -/

@[simp] theorem State.clearStatus_cfg (s : State) : (s.clearStatus).cfg = s.cfg := rfl
@[simp] theorem State.clearStatus_phase (s : State) : (s.clearStatus).phase = s.phase := rfl
@[simp] theorem State.clearStatus_cmd (s : State) : (s.clearStatus).cmd = s.cmd := rfl
@[simp] theorem State.clearStatus_seq (s : State) : (s.clearStatus).seq = s.seq := rfl
@[simp] theorem State.clearStatus_txbuf (s : State) : (s.clearStatus).txbuf = s.txbuf := rfl
@[simp] theorem State.clearStatus_rxbuf (s : State) : (s.clearStatus).rxbuf = s.rxbuf := rfl
@[simp] theorem State.clearStatus_res (s : State) : (s.clearStatus).res = s.res := rfl
@[simp] theorem State.clearStatus_resWritten (s : State) : (s.clearStatus).resWritten = s.resWritten := rfl
@[simp] theorem State.clearStatus_status (s : State) : (s.clearStatus).status = ⟨false, false⟩ := rfl
@[simp] theorem State.clearStatus_bus (s : State) : (s.clearStatus).bus = s.bus := rfl
@[simp] theorem State.clearStatus_target (s : State) : (s.clearStatus).target = s.target := rfl
@[simp] theorem State.clearStatus_env (s : State) : (s.clearStatus).env = s.env := rfl
@[simp] theorem State.clearStatus_host (s : State) : (s.clearStatus).host = s.host := rfl
@[simp] theorem State.clearStatus_resetIn (s : State) : (s.clearStatus).resetIn = s.resetIn := rfl
@[simp] theorem State.clearStatus_draws (s : State) : (s.clearStatus).draws = s.draws := rfl
@[simp] theorem State.clearStatus_events (s : State) : (s.clearStatus).events = s.events := rfl

/-! ## `raiseRange` -/

@[simp] theorem State.raiseRange_cfg (s : State) : (s.raiseRange).cfg = s.cfg := rfl
@[simp] theorem State.raiseRange_phase (s : State) : (s.raiseRange).phase = s.phase := rfl
@[simp] theorem State.raiseRange_cmd (s : State) : (s.raiseRange).cmd = s.cmd := rfl
@[simp] theorem State.raiseRange_seq (s : State) : (s.raiseRange).seq = s.seq := rfl
@[simp] theorem State.raiseRange_txbuf (s : State) : (s.raiseRange).txbuf = s.txbuf := rfl
@[simp] theorem State.raiseRange_rxbuf (s : State) : (s.raiseRange).rxbuf = s.rxbuf := rfl
@[simp] theorem State.raiseRange_res (s : State) : (s.raiseRange).res = s.res := rfl
@[simp] theorem State.raiseRange_resWritten (s : State) : (s.raiseRange).resWritten = s.resWritten := rfl
@[simp] theorem State.raiseRange_status (s : State) : (s.raiseRange).status = ⟨true, false⟩ := rfl
@[simp] theorem State.raiseRange_bus (s : State) : (s.raiseRange).bus = s.bus := rfl
@[simp] theorem State.raiseRange_target (s : State) : (s.raiseRange).target = s.target := rfl
@[simp] theorem State.raiseRange_env (s : State) : (s.raiseRange).env = s.env := rfl
@[simp] theorem State.raiseRange_host (s : State) : (s.raiseRange).host = s.host := rfl
@[simp] theorem State.raiseRange_resetIn (s : State) : (s.raiseRange).resetIn = s.resetIn := rfl
@[simp] theorem State.raiseRange_draws (s : State) : (s.raiseRange).draws = s.draws := rfl
@[simp] theorem State.raiseRange_events (s : State) : (s.raiseRange).events = s.events := rfl

/-! ## `raiseIllegal` -/

@[simp] theorem State.raiseIllegal_cfg (s : State) : (s.raiseIllegal).cfg = s.cfg := rfl
@[simp] theorem State.raiseIllegal_phase (s : State) : (s.raiseIllegal).phase = s.phase := rfl
@[simp] theorem State.raiseIllegal_cmd (s : State) : (s.raiseIllegal).cmd = s.cmd := rfl
@[simp] theorem State.raiseIllegal_seq (s : State) : (s.raiseIllegal).seq = s.seq := rfl
@[simp] theorem State.raiseIllegal_txbuf (s : State) : (s.raiseIllegal).txbuf = s.txbuf := rfl
@[simp] theorem State.raiseIllegal_rxbuf (s : State) : (s.raiseIllegal).rxbuf = s.rxbuf := rfl
@[simp] theorem State.raiseIllegal_res (s : State) : (s.raiseIllegal).res = s.res := rfl
@[simp] theorem State.raiseIllegal_resWritten (s : State) : (s.raiseIllegal).resWritten = s.resWritten := rfl
@[simp] theorem State.raiseIllegal_status (s : State) : (s.raiseIllegal).status = ⟨false, true⟩ := rfl
@[simp] theorem State.raiseIllegal_bus (s : State) : (s.raiseIllegal).bus = s.bus := rfl
@[simp] theorem State.raiseIllegal_target (s : State) : (s.raiseIllegal).target = s.target := rfl
@[simp] theorem State.raiseIllegal_env (s : State) : (s.raiseIllegal).env = s.env := rfl
@[simp] theorem State.raiseIllegal_host (s : State) : (s.raiseIllegal).host = s.host := rfl
@[simp] theorem State.raiseIllegal_resetIn (s : State) : (s.raiseIllegal).resetIn = s.resetIn := rfl
@[simp] theorem State.raiseIllegal_draws (s : State) : (s.raiseIllegal).draws = s.draws := rfl
@[simp] theorem State.raiseIllegal_events (s : State) : (s.raiseIllegal).events = s.events := rfl

/-! ## `countDraw` -/

@[simp] theorem State.countDraw_cfg (s : State) : (s.countDraw).cfg = s.cfg := rfl
@[simp] theorem State.countDraw_phase (s : State) : (s.countDraw).phase = s.phase := rfl
@[simp] theorem State.countDraw_cmd (s : State) : (s.countDraw).cmd = s.cmd := rfl
@[simp] theorem State.countDraw_seq (s : State) : (s.countDraw).seq = s.seq := rfl
@[simp] theorem State.countDraw_txbuf (s : State) : (s.countDraw).txbuf = s.txbuf := rfl
@[simp] theorem State.countDraw_rxbuf (s : State) : (s.countDraw).rxbuf = s.rxbuf := rfl
@[simp] theorem State.countDraw_res (s : State) : (s.countDraw).res = s.res := rfl
@[simp] theorem State.countDraw_resWritten (s : State) : (s.countDraw).resWritten = s.resWritten := rfl
@[simp] theorem State.countDraw_status (s : State) : (s.countDraw).status = s.status := rfl
@[simp] theorem State.countDraw_bus (s : State) : (s.countDraw).bus = s.bus := rfl
@[simp] theorem State.countDraw_target (s : State) : (s.countDraw).target = s.target := rfl
@[simp] theorem State.countDraw_env (s : State) : (s.countDraw).env = s.env := rfl
@[simp] theorem State.countDraw_host (s : State) : (s.countDraw).host = s.host := rfl
@[simp] theorem State.countDraw_resetIn (s : State) : (s.countDraw).resetIn = s.resetIn := rfl
@[simp] theorem State.countDraw_draws (s : State) : (s.countDraw).draws = s.draws + 1 := rfl
@[simp] theorem State.countDraw_events (s : State) : (s.countDraw).events = s.events := rfl

/-! ## `toIdle` -/

@[simp] theorem State.toIdle_cfg (s : State) : (s.toIdle).cfg = s.cfg := rfl
@[simp] theorem State.toIdle_phase (s : State) : (s.toIdle).phase = .idle := rfl
@[simp] theorem State.toIdle_cmd (s : State) : (s.toIdle).cmd = s.cmd := rfl
@[simp] theorem State.toIdle_seq (s : State) : (s.toIdle).seq = s.seq := rfl
@[simp] theorem State.toIdle_txbuf (s : State) : (s.toIdle).txbuf = s.txbuf := rfl
@[simp] theorem State.toIdle_rxbuf (s : State) : (s.toIdle).rxbuf = s.rxbuf := rfl
@[simp] theorem State.toIdle_res (s : State) : (s.toIdle).res = s.res := rfl
@[simp] theorem State.toIdle_resWritten (s : State) : (s.toIdle).resWritten = s.resWritten := rfl
@[simp] theorem State.toIdle_status (s : State) : (s.toIdle).status = s.status := rfl
@[simp] theorem State.toIdle_bus (s : State) : (s.toIdle).bus = s.bus := rfl
@[simp] theorem State.toIdle_target (s : State) : (s.toIdle).target = s.target := rfl
@[simp] theorem State.toIdle_env (s : State) : (s.toIdle).env = s.env := rfl
@[simp] theorem State.toIdle_host (s : State) : (s.toIdle).host = s.host := rfl
@[simp] theorem State.toIdle_resetIn (s : State) : (s.toIdle).resetIn = s.resetIn := rfl
@[simp] theorem State.toIdle_draws (s : State) : (s.toIdle).draws = s.draws := rfl
@[simp] theorem State.toIdle_events (s : State) : (s.toIdle).events = s.events := rfl

/-! ## `acceptMalformed` -/

@[simp] theorem State.acceptMalformed_cfg (s : State) (w : CmdWord) : (s.acceptMalformed w).cfg = s.cfg := rfl
@[simp] theorem State.acceptMalformed_phase (s : State) (w : CmdWord) : (s.acceptMalformed w).phase = .idle := rfl
@[simp] theorem State.acceptMalformed_cmd (s : State) (w : CmdWord) : (s.acceptMalformed w).cmd = w := rfl
@[simp] theorem State.acceptMalformed_seq (s : State) (w : CmdWord) : (s.acceptMalformed w).seq = 0 := rfl
@[simp] theorem State.acceptMalformed_txbuf (s : State) (w : CmdWord) : (s.acceptMalformed w).txbuf = s.txbuf := rfl
@[simp] theorem State.acceptMalformed_rxbuf (s : State) (w : CmdWord) : (s.acceptMalformed w).rxbuf = s.rxbuf := rfl
@[simp] theorem State.acceptMalformed_res (s : State) (w : CmdWord) : (s.acceptMalformed w).res = s.res := rfl
@[simp] theorem State.acceptMalformed_resWritten (s : State) (w : CmdWord) : (s.acceptMalformed w).resWritten = s.resWritten := rfl
@[simp] theorem State.acceptMalformed_status (s : State) (w : CmdWord) : (s.acceptMalformed w).status = ⟨false, true⟩ := rfl
@[simp] theorem State.acceptMalformed_bus (s : State) (w : CmdWord) : (s.acceptMalformed w).bus = s.bus := rfl
@[simp] theorem State.acceptMalformed_target (s : State) (w : CmdWord) : (s.acceptMalformed w).target = s.target := rfl
@[simp] theorem State.acceptMalformed_env (s : State) (w : CmdWord) : (s.acceptMalformed w).env = s.env := rfl
@[simp] theorem State.acceptMalformed_host (s : State) (w : CmdWord) : (s.acceptMalformed w).host = s.host.tail := rfl
@[simp] theorem State.acceptMalformed_resetIn (s : State) (w : CmdWord) : (s.acceptMalformed w).resetIn = s.resetIn := rfl
@[simp] theorem State.acceptMalformed_draws (s : State) (w : CmdWord) : (s.acceptMalformed w).draws = s.draws := rfl
@[simp] theorem State.acceptMalformed_events (s : State) (w : CmdWord) : (s.acceptMalformed w).events = s.events := rfl

/-! ## `blockReset` -/

@[simp] theorem State.blockReset_cfg (s : State) : (s.blockReset).cfg = s.cfg := rfl
@[simp] theorem State.blockReset_phase (s : State) : (s.blockReset).phase = .idle := rfl
@[simp] theorem State.blockReset_cmd (s : State) : (s.blockReset).cmd = 0#64 := rfl
@[simp] theorem State.blockReset_seq (s : State) : (s.blockReset).seq = 0 := rfl
@[simp] theorem State.blockReset_txbuf (s : State) : (s.blockReset).txbuf = Buf.zero := rfl
@[simp] theorem State.blockReset_rxbuf (s : State) : (s.blockReset).rxbuf = Buf.zero := rfl
@[simp] theorem State.blockReset_res (s : State) : (s.blockReset).res = Buf.zero := rfl
@[simp] theorem State.blockReset_resWritten (s : State) : (s.blockReset).resWritten = false := rfl
@[simp] theorem State.blockReset_status (s : State) : (s.blockReset).status = ⟨false, false⟩ := rfl
@[simp] theorem State.blockReset_bus (s : State) : (s.blockReset).bus = ⟨none, none⟩ := rfl
@[simp] theorem State.blockReset_target (s : State) : (s.blockReset).target = { s.target with known := s.target.known && decide (s.phase = .idle) } := rfl
@[simp] theorem State.blockReset_env (s : State) : (s.blockReset).env = if s.phase = .busy then Config.anyEnv s.draws else s.env := rfl
@[simp] theorem State.blockReset_host (s : State) : (s.blockReset).host = s.host := rfl
@[simp] theorem State.blockReset_resetIn (s : State) : (s.blockReset).resetIn = false := rfl
@[simp] theorem State.blockReset_draws (s : State) : (s.blockReset).draws = if s.phase = .busy then s.draws + 1 else s.draws := rfl
@[simp] theorem State.blockReset_events (s : State) : (s.blockReset).events = s.events := rfl

/-! ## `present` -/

@[simp] theorem State.present_cfg (s : State) (w : CmdWord) : (s.present w).cfg = s.cfg := rfl
@[simp] theorem State.present_phase (s : State) (w : CmdWord) : (s.present w).phase = .idle := rfl
@[simp] theorem State.present_cmd (s : State) (w : CmdWord) : (s.present w).cmd = s.cmd := rfl
@[simp] theorem State.present_seq (s : State) (w : CmdWord) : (s.present w).seq = s.seq := rfl
@[simp] theorem State.present_txbuf (s : State) (w : CmdWord) : (s.present w).txbuf = s.txbuf := rfl
@[simp] theorem State.present_rxbuf (s : State) (w : CmdWord) : (s.present w).rxbuf = s.rxbuf := rfl
@[simp] theorem State.present_res (s : State) (w : CmdWord) : (s.present w).res = s.res := rfl
@[simp] theorem State.present_resWritten (s : State) (w : CmdWord) : (s.present w).resWritten = s.resWritten := rfl
@[simp] theorem State.present_status (s : State) (w : CmdWord) : (s.present w).status = s.status := rfl
@[simp] theorem State.present_bus (s : State) (w : CmdWord) : (s.present w).bus = s.bus := rfl
@[simp] theorem State.present_target (s : State) (w : CmdWord) : (s.present w).target = s.target := rfl
@[simp] theorem State.present_env (s : State) (w : CmdWord) : (s.present w).env = s.env := rfl
@[simp] theorem State.present_host (s : State) (w : CmdWord) : (s.present w).host = w :: s.host := rfl
@[simp] theorem State.present_resetIn (s : State) (w : CmdWord) : (s.present w).resetIn = false := rfl
@[simp] theorem State.present_draws (s : State) (w : CmdWord) : (s.present w).draws = s.draws := rfl
@[simp] theorem State.present_events (s : State) (w : CmdWord) : (s.present w).events = s.events := rfl

/-! ## `finishQuiet` -/

@[simp] theorem finishQuiet_cfg (s : State) : (finishQuiet s).cfg = s.cfg := rfl
@[simp] theorem finishQuiet_phase (s : State) : (finishQuiet s).phase = s.phase := rfl
@[simp] theorem finishQuiet_cmd (s : State) : (finishQuiet s).cmd = s.cmd := rfl
@[simp] theorem finishQuiet_seq (s : State) : (finishQuiet s).seq = s.seq := rfl
@[simp] theorem finishQuiet_txbuf (s : State) : (finishQuiet s).txbuf = s.txbuf := rfl
@[simp] theorem finishQuiet_rxbuf (s : State) : (finishQuiet s).rxbuf = s.rxbuf := rfl
@[simp] theorem finishQuiet_res (s : State) : (finishQuiet s).res = s.res := rfl
@[simp] theorem finishQuiet_resWritten (s : State) : (finishQuiet s).resWritten = s.resWritten := rfl
@[simp] theorem finishQuiet_status (s : State) : (finishQuiet s).status = ⟨false, false⟩ := rfl
@[simp] theorem finishQuiet_bus (s : State) : (finishQuiet s).bus = s.bus := rfl
@[simp] theorem finishQuiet_target (s : State) : (finishQuiet s).target = s.target := rfl
@[simp] theorem finishQuiet_env (s : State) : (finishQuiet s).env = s.env := rfl
@[simp] theorem finishQuiet_host (s : State) : (finishQuiet s).host = s.host := rfl
@[simp] theorem finishQuiet_resetIn (s : State) : (finishQuiet s).resetIn = s.resetIn := rfl
@[simp] theorem finishQuiet_draws (s : State) : (finishQuiet s).draws = s.draws := rfl
@[simp] theorem finishQuiet_events (s : State) : (finishQuiet s).events = s.events := rfl

/-! ## `finishResult` -/

@[simp] theorem finishResult_cfg (s : State) (r : Buf) : (finishResult r s).cfg = s.cfg := rfl
@[simp] theorem finishResult_phase (s : State) (r : Buf) : (finishResult r s).phase = s.phase := rfl
@[simp] theorem finishResult_cmd (s : State) (r : Buf) : (finishResult r s).cmd = s.cmd := rfl
@[simp] theorem finishResult_seq (s : State) (r : Buf) : (finishResult r s).seq = s.seq := rfl
@[simp] theorem finishResult_txbuf (s : State) (r : Buf) : (finishResult r s).txbuf = s.txbuf := rfl
@[simp] theorem finishResult_rxbuf (s : State) (r : Buf) : (finishResult r s).rxbuf = s.rxbuf := rfl
@[simp] theorem finishResult_res (s : State) (r : Buf) : (finishResult r s).res = r := rfl
@[simp] theorem finishResult_resWritten (s : State) (r : Buf) : (finishResult r s).resWritten = true := rfl
@[simp] theorem finishResult_status (s : State) (r : Buf) : (finishResult r s).status = ⟨false, false⟩ := rfl
@[simp] theorem finishResult_bus (s : State) (r : Buf) : (finishResult r s).bus = s.bus := rfl
@[simp] theorem finishResult_target (s : State) (r : Buf) : (finishResult r s).target = s.target := rfl
@[simp] theorem finishResult_env (s : State) (r : Buf) : (finishResult r s).env = s.env := rfl
@[simp] theorem finishResult_host (s : State) (r : Buf) : (finishResult r s).host = s.host := rfl
@[simp] theorem finishResult_resetIn (s : State) (r : Buf) : (finishResult r s).resetIn = s.resetIn := rfl
@[simp] theorem finishResult_draws (s : State) (r : Buf) : (finishResult r s).draws = s.draws := rfl
@[simp] theorem finishResult_events (s : State) (r : Buf) : (finishResult r s).events = s.events := rfl

end Sys2Proof.Machine
end

