-- ==== Sys2Proof/Laws/Engine.lean ====
section
/-! SUPPORT. What one step of a command can do, said once (spec R103, R104): `exec` in the engine's terms, and the inversion
lemmas of `runCommand`, `exec` and `step`. -/

namespace Sys2Proof.Machine

/-- Every meaning is one engine step over the command's trace and completion. -/
theorem exec_eq_runCommand (i : Instr) (s : State) :
    exec i s = runCommand (encode i) (s.traceOf i) (finishOf s.rxbuf i) s := by
  cases i <;> rfl

/-- In `IDLE` a command with an empty trace is accepted and completed at once (R103). -/
theorem runCommand_idle_empty {w : CmdWord} {tr : List Event} {fin : State → State} {s : State}
    (hp : s.phase = .idle) (ht : tr = []) : runCommand w tr fin s = .next (fin (s.accept w)).toIdle := by
  subst ht; simp [runCommand, hp]

/-- In `IDLE` a command with events is accepted (R103). -/
theorem runCommand_idle {w : CmdWord} {tr : List Event} {fin : State → State} {s : State}
    (hp : s.phase = .idle) (ht : tr ≠ []) : runCommand w tr fin s = .next (s.accept w) := by
  simp [runCommand, hp, List.isEmpty_iff, ht]

/-- In `BUSY` the event at `SEQ` is emitted (R104). -/
theorem runCommand_event {w : CmdWord} {tr : List Event} {fin : State → State} {s : State} {e : Event}
    (hp : s.phase = .busy) (he : tr[s.seq]? = some e) (hr : s.env.returns ≠ some 0) :
    runCommand w tr fin s = .next (s.emit tr e) := by
  simp [runCommand, hp, he, hr]

/-- In `BUSY` a primitive that never returns leaves the block where it is (R44). -/
theorem runCommand_hang {w : CmdWord} {tr : List Event} {fin : State → State} {s : State} {e : Event}
    (hp : s.phase = .busy) (he : tr[s.seq]? = some e) (hr : s.env.returns = some 0) :
    runCommand w tr fin s = .next s := by
  simp [runCommand, hp, he, hr]

/-- In `BUSY` past the last event the command completes (R104). -/
theorem runCommand_complete {w : CmdWord} {tr : List Event} {fin : State → State} {s : State}
    (hp : s.phase = .busy) (he : tr.length ≤ s.seq) : runCommand w tr fin s = .next (fin s).toIdle := by
  simp [runCommand, hp, List.getElem?_eq_none he]

/-- Everything one engine step can do. -/
theorem runCommand_cases {w : CmdWord} {tr : List Event} {fin : State → State} {s t : State}
    (h : runCommand w tr fin s = .next t) :
    (s.phase = .idle ∧ tr = [] ∧ t = (fin (s.accept w)).toIdle) ∨
    (s.phase = .idle ∧ tr ≠ [] ∧ t = s.accept w) ∨
    (∃ e, s.phase = .busy ∧ tr[s.seq]? = some e ∧ s.env.returns = some 0 ∧ t = s) ∨
    (∃ e, s.phase = .busy ∧ tr[s.seq]? = some e ∧ s.env.returns ≠ some 0 ∧ t = s.emit tr e) ∨
    (s.phase = .busy ∧ tr.length ≤ s.seq ∧ t = (fin s).toIdle) := by
  cases hp : s.phase with
  | idle =>
    by_cases ht : tr = []
    · rw [runCommand_idle_empty hp ht] at h
      cases h; exact .inl ⟨rfl, ht, rfl⟩
    · rw [runCommand_idle hp ht] at h
      cases h; exact .inr (.inl ⟨rfl, ht, rfl⟩)
  | busy =>
    cases he : tr[s.seq]? with
    | none =>
      have hl : tr.length ≤ s.seq := List.getElem?_eq_none_iff.mp he
      rw [runCommand_complete hp hl] at h
      cases h; exact .inr (.inr (.inr (.inr ⟨rfl, hl, rfl⟩)))
    | some e =>
      by_cases hr : s.env.returns = some 0
      · rw [runCommand_hang hp he hr] at h
        cases h; exact .inr (.inr (.inl ⟨e, rfl, rfl, hr, rfl⟩))
      · rw [runCommand_event hp he hr] at h
        cases h; exact .inr (.inr (.inr (.inl ⟨e, rfl, rfl, hr, rfl⟩)))

/-- Everything one step of the machine can do. -/
theorem step_cases {s t : State} (h : step s = .next t) :
    s.cfg.wf = true ∧
      ((s.resetIn = true ∧ t = s.blockReset) ∨
       (s.resetIn = false ∧ s.fetch = .wait ∧ t = s) ∨
       (∃ w, s.resetIn = false ∧ s.fetch = .malformed w ∧ t = s.acceptMalformed w) ∨
       (∃ i, s.resetIn = false ∧ s.fetch = .run i ∧ exec i s = .next t)) := by
  unfold step at h
  split at h
  · next hw =>
    refine ⟨hw, ?_⟩
    cases hr : s.resetIn with
    | true => rw [hr] at h; cases h; exact .inl ⟨rfl, rfl⟩
    | false =>
      rw [hr] at h
      cases hf : s.fetch with
      | wait => rw [hf] at h; cases h; exact .inr (.inl ⟨rfl, rfl, rfl⟩)
      | malformed w => rw [hf] at h; cases h; exact .inr (.inr (.inl ⟨w, rfl, rfl, rfl⟩))
      | run i => rw [hf] at h; exact .inr (.inr (.inr ⟨i, rfl, rfl, h⟩))
  · cases h

end Sys2Proof.Machine
end

