-- ==== Sys2Proof/Laws/Memory.lean ====
section
/-! SUPPORT. The byte stores: a read after a write to the same address gives the byte written, a write leaves every other
address alone, and every operation keeps the canonical form. -/

namespace Sys2Proof.Machine

theorem Memory.wfFrom_mono {m : Memory} {lo lo' : Nat} (h : lo' ≤ lo) (hm : Memory.wfFrom lo m = true) :
    Memory.wfFrom lo' m = true := by
  cases m with
  | nil => rfl
  | cons c m =>
    simp only [Memory.wfFrom, Bool.and_eq_true, decide_eq_true_eq] at hm ⊢
    exact ⟨⟨⟨by omega, hm.1.1.2⟩, hm.1.2⟩, hm.2⟩

/-- Below its first address a canonical memory lists nothing. -/
theorem Memory.lookup_below {m : Memory} {lo a : Nat} (hm : Memory.wfFrom lo m = true) (ha : a < lo) :
    Memory.lookup m a = Memory.unlisted := by
  induction m generalizing lo with
  | nil => rfl
  | cons c m ih =>
    simp only [Memory.wfFrom, Bool.and_eq_true, decide_eq_true_eq] at hm
    simp only [Memory.lookup, if_neg (show c.1 ≠ a by omega)]
    exact ih hm.2 (by omega)

theorem Memory.put_wfFrom {m : Memory} {lo a : Nat} {v : Byte} (hm : Memory.wfFrom lo m = true) (hlo : lo ≤ a)
    (ha : a < 256) : Memory.wfFrom lo (Memory.put m a v) = true := by
  induction m generalizing lo with
  | nil =>
    by_cases hv : v = Memory.unlisted <;> simp [Memory.put, Memory.wfFrom, hv, hlo, ha]
  | cons c m ih =>
    have hc := hm
    simp only [Memory.wfFrom, Bool.and_eq_true, decide_eq_true_eq] at hc
    by_cases h1 : a < c.1
    · by_cases hv : v = Memory.unlisted
      · simpa [Memory.put, h1, hv] using hm
      · simp only [Memory.put, h1, hv, if_true, if_false, Memory.wfFrom, Bool.and_eq_true, decide_eq_true_eq]
        exact ⟨⟨⟨hlo, ha⟩, hv⟩, ⟨⟨by omega, hc.1.1.2⟩, hc.1.2⟩, hc.2⟩
    · by_cases h2 : a = c.1
      · by_cases hv : v = Memory.unlisted
        · simpa [Memory.put, h2, hv] using Memory.wfFrom_mono (show lo ≤ c.1 + 1 by omega) hc.2
        · subst h2
          simp only [Memory.put, h1, hv, if_true, if_false, Memory.wfFrom, Bool.and_eq_true, decide_eq_true_eq]
          exact ⟨⟨⟨hlo, ha⟩, hv⟩, hc.2⟩
      · simp only [Memory.put, h1, h2, if_false, Memory.wfFrom, Bool.and_eq_true, decide_eq_true_eq]
        exact ⟨hc.1, ih hc.2 (by omega)⟩

theorem Memory.lookup_put_same {m : Memory} {lo : Nat} (a : Nat) (v : Byte) (hm : Memory.wfFrom lo m = true) :
    Memory.lookup (Memory.put m a v) a = v := by
  induction m generalizing lo with
  | nil => by_cases hv : v = Memory.unlisted <;> simp [Memory.put, Memory.lookup, hv]
  | cons c m ih =>
    have hc := hm
    simp only [Memory.wfFrom, Bool.and_eq_true, decide_eq_true_eq] at hc
    by_cases h1 : a < c.1
    · by_cases hv : v = Memory.unlisted
      · simp only [Memory.put, h1, hv, if_true, Memory.lookup, if_neg (show c.1 ≠ a by omega)]
        exact Memory.lookup_below hc.2 (by omega)
      · simp [Memory.put, h1, hv, Memory.lookup]
    · by_cases h2 : a = c.1
      · by_cases hv : v = Memory.unlisted
        · simpa [Memory.put, h2, hv] using Memory.lookup_below hc.2 (Nat.lt_succ_self c.1)
        · simp [Memory.put, h2, hv, Memory.lookup]
      · simp only [Memory.put, h1, h2, if_false, Memory.lookup, if_neg (show c.1 ≠ a by omega)]
        exact ih hc.2

theorem Memory.lookup_put_other {m : Memory} {a b : Nat} (v : Byte) (h : b ≠ a) :
    Memory.lookup (Memory.put m a v) b = Memory.lookup m b := by
  induction m with
  | nil => by_cases hv : v = Memory.unlisted <;> simp [Memory.put, Memory.lookup, hv, h.symm]
  | cons c m ih =>
    by_cases h1 : a < c.1
    · by_cases hv : v = Memory.unlisted <;> simp [Memory.put, Memory.lookup, h1, hv, h.symm]
    · by_cases h2 : a = c.1
      · have h3 : c.1 ≠ b := fun h4 => h (by omega)
        by_cases hv : v = Memory.unlisted <;> simp [Memory.put, Memory.lookup, h2, h3, hv]
      · simp only [Memory.put, h1, h2, if_false, Memory.lookup, ih]

/-- A store keeps the canonical form. -/
theorem Memory.write_wf {m : Memory} (a v : Byte) (hm : Memory.wf m = true) : Memory.wf (Memory.write m a v) = true :=
  Memory.put_wfFrom hm (Nat.zero_le _) a.isLt

/-- A read after a write to the same address. -/
theorem Memory.read_write_same {m : Memory} (a v : Byte) (hm : Memory.wf m = true) :
    Memory.read (Memory.write m a v) a = v :=
  Memory.lookup_put_same a.toNat v hm

/-- A write leaves every other address alone. -/
theorem Memory.read_write_other {m : Memory} {a b : Byte} (v : Byte) (h : b ≠ a) :
    Memory.read (Memory.write m a v) b = Memory.read m b :=
  Memory.lookup_put_other v fun h' => h (BitVec.eq_of_toNat_eq h')

end Sys2Proof.Machine
end

