-- ==== Sys2Proof/Laws/PerInstr.lean ====
section
/-! SUPPORT. The per-instruction family `OpcodeField`: the word of every command has `Z = 0` and carries the opcode number of
R61 (one lemma per constructor). -/

namespace Sys2Proof.Laws.OpcodeField

/-- The opcode numbers of R61. -/
def opcodeOf : Instr → BitVec 4
  | .dec2bcd _ => 0x1#4
  | .bcd2dec _ => 0x2#4
  | .setdt _ _ _ _ _ _ _ => 0x3#4
  | .getdt => 0x4#4
  | .clken => 0x5#4
  | .clkdis => 0x6#4
  | .baten => 0x7#4
  | .sramwr _ _ => 0x8#4
  | .sramrd _ => 0x9#4
  | .idunlock => 0xA#4
  | .macwr _ _ _ _ _ _ => 0xB#4
  | .macrd => 0xC#4

/-- The word of a command has `Z = 0000` and the command's opcode (R60, R61). -/
def Statement (i : Instr) : Prop := opField (encode i) = opcodeOf i ∧ zField (encode i) = 0#4

theorem of_layout (op : BitVec 4) (b6 b5 b4 b3 b2 b1 b0 : Byte) :
    opField (layout op b6 b5 b4 b3 b2 b1 b0) = op ∧ zField (layout op b6 b5 b4 b3 b2 b1 b0) = 0#4 :=
  ⟨(fields_layout op b6 b5 b4 b3 b2 b1 b0).1, (fields_layout op b6 b5 b4 b3 b2 b1 b0).2.1⟩

theorem dec2bcd (value : Byte) : Statement (.dec2bcd value) := of_layout ..
theorem bcd2dec (value : Byte) : Statement (.bcd2dec value) := of_layout ..
theorem setdt (second minute hour dayOfWeek dayOfMonth month year : Byte) :
    Statement (.setdt second minute hour dayOfWeek dayOfMonth month year) := of_layout ..
theorem getdt : Statement .getdt := of_layout ..
theorem clken : Statement .clken := of_layout ..
theorem clkdis : Statement .clkdis := of_layout ..
theorem baten : Statement .baten := of_layout ..
theorem sramwr (location data : Byte) : Statement (.sramwr location data) := of_layout ..
theorem sramrd (location : Byte) : Statement (.sramrd location) := of_layout ..
theorem idunlock : Statement .idunlock := of_layout ..
theorem macwr (b0 b1 b2 b3 b4 b5 : Byte) : Statement (.macwr b0 b1 b2 b3 b4 b5) := of_layout ..
theorem macrd : Statement .macrd := of_layout ..

end Sys2Proof.Laws.OpcodeField
end

