-- ==== Sys2Proof/Laws/Run.lean ====
section
/-! SUPPORT. Several steps, one after the other, and what a command's completion and trace leave alone: the lemmas a proof
about a whole command goes through. -/

namespace Sys2Proof.Machine

theorem run_zero (s : State) : Host.Core.run core 0 s = .next s := rfl

/-- One step off the front of a run. -/
theorem run_succ {n : Nat} {s t : State} (h : step s = .next t) :
    Host.Core.run core (n + 1) s = Host.Core.run core n t := by
  have h' : core.step s = .next t := h
  simp only [Host.Core.run]
  split
  · next heq => rw [h'] at heq; cases heq; rfl
  · next heq => rw [h'] at heq; cases heq
  · next heq => rw [h'] at heq; cases heq

/-- What the completion of a command touches: `RES` if it has a result, the flags, and `draws`; nothing else. -/
theorem finishOf_frame (rx : Buf) (i : Instr) (s : State) :
    (finishOf rx i s).status = ⟨outOfRange i, false⟩ ∧ (finishOf rx i s).cfg = s.cfg ∧
    (finishOf rx i s).phase = s.phase ∧ (finishOf rx i s).cmd = s.cmd ∧ (finishOf rx i s).seq = s.seq ∧
    (finishOf rx i s).txbuf = s.txbuf ∧ (finishOf rx i s).rxbuf = s.rxbuf ∧ (finishOf rx i s).bus = s.bus ∧
    (finishOf rx i s).target = s.target ∧ (finishOf rx i s).env = s.env ∧ (finishOf rx i s).host = s.host ∧
    (finishOf rx i s).resetIn = s.resetIn ∧ (finishOf rx i s).events = s.events ∧
    (hasResult i = false → (finishOf rx i s).res = s.res ∧ (finishOf rx i s).resWritten = s.resWritten) ∧
    (hasResult i = true → (finishOf rx i s).resWritten = true) := by
  cases i
  case sramwr loc d => cases h : inSramWindow loc <;> simp [finishOf, sramwrFinish, h, outOfRange, hasResult]
  case sramrd loc => cases h : inSramWindow loc <;> simp [finishOf, sramrdFinish, h, outOfRange, hasResult]
  all_goals simp [finishOf, outOfRange, hasResult]

/-- Whether a trace is empty does not depend on the bytes received (R104). -/
theorem traceOf_eq_nil_iff (c : Config) (rx rx' : Buf) (i : Instr) : traceOf c rx i = [] ↔ traceOf c rx' i = [] := by
  cases i
  case sramwr loc d => cases h : inSramWindow loc <;> simp [traceOf, sramwrTrace, h, writeSeq]
  case sramrd loc => cases h : inSramWindow loc <;> simp [traceOf, sramrdTrace, h, readSeq, writeSeq]
  all_goals simp [traceOf, setdtTrace, getdtTrace, modifyTrace, idunlockTrace, macwrTrace, macrdTrace, readSeq, writeSeq]

/-- A command with events to emit is not out of range (R130). -/
theorem outOfRange_of_traceOf_ne_nil {c : Config} {rx : Buf} {i : Instr} (h : traceOf c rx i ≠ []) :
    outOfRange i = false := by
  cases i
  case sramwr loc d => cases h' : inSramWindow loc <;> simp_all [traceOf, sramwrTrace, outOfRange]
  case sramrd loc => cases h' : inSramWindow loc <;> simp_all [traceOf, sramrdTrace, outOfRange]
  all_goals rfl

/-- Receiving a byte changes no event up to and including the `RECV` (R104). -/
theorem traceOf_take_recv {c : Config} {rx : Buf} (rx' : Buf) {i : Instr} {k : Nat}
    (h : (traceOf c rx i)[k]? = some .recv) : (traceOf c rx' i).take (k + 1) = (traceOf c rx i).take (k + 1) := by
  cases i
  case clken | clkdis | baten =>
    simp only [traceOf, modifyTrace, readSeq, writeSeq, addrOf] at h ⊢
    match k, h with
    | 0, h | 1, h | 2, h | 3, h | 5, h | 6, h | 7, h | 8, h => simp at h
    | 4, _ => rfl
    | k + 9, h => simp at h
  all_goals rfl

/-- Only a `RECV` changes `RXBUF` (R13). -/
theorem State.rxbuf_emit_of_ne_recv (s : State) (tr : List Event) {e : Event} (h : e ≠ .recv) :
    (s.emit tr e).rxbuf = s.rxbuf := by
  cases e <;> first | rfl | exact absurd rfl h

/-- A whole trace leaves no transaction pending (R17, R35). -/
theorem busAfter_traceOf (c : Config) (rx : Buf) (i : Instr) : busAfter (traceOf c rx i) = ⟨none, none⟩ := by
  cases i
  case sramwr loc d =>
    cases h : inSramWindow loc <;> simp [traceOf, sramwrTrace, h, writeSeq, busAfter, Bus.after]
  case sramrd loc =>
    cases h : inSramWindow loc <;> simp [traceOf, sramrdTrace, h, readSeq, writeSeq, busAfter, Bus.after]
  all_goals
    simp [traceOf, setdtTrace, setdtBurst, getdtTrace, modifyTrace, idunlockTrace, macwrTrace, macrdTrace, readSeq,
      writeSeq, busAfter, Bus.after, Const.dtLen, Const.macLen, List.replicate]

end Sys2Proof.Machine
end

