-- ==== Sys2Proof/Laws/Target.lean ====
section
/-! SUPPORT. The reference target's operations (spec R45 to R50): what each leaves alone, and that each keeps the stores
canonical. -/

namespace Sys2Proof.Machine

@[simp] theorem Target.mem_setPtr (t : Target) (x y : Device) (p : Byte) : (t.setPtr x p).mem y = t.mem y := by
  cases x <;> cases y <;> rfl

@[simp] theorem Target.lock_setPtr (t : Target) (x : Device) (p : Byte) : (t.setPtr x p).lock = t.lock := by
  cases x <;> rfl

@[simp] theorem Target.known_setPtr (t : Target) (x : Device) (p : Byte) : (t.setPtr x p).known = t.known := by
  cases x <;> rfl

@[simp] theorem Target.ptr_setPtr_same (t : Target) (x : Device) (p : Byte) : (t.setPtr x p).ptr x = p := by
  cases x <;> rfl

theorem Target.ptr_setPtr_other (t : Target) {x y : Device} (p : Byte) (h : y ≠ x) : (t.setPtr x p).ptr y = t.ptr y := by
  cases x <;> cases y <;> first | rfl | exact absurd rfl h

@[simp] theorem Target.mem_advancePtr (t : Target) (x y : Device) : (t.advancePtr x).mem y = t.mem y := by
  simp [Target.advancePtr]

@[simp] theorem Target.lock_advancePtr (t : Target) (x : Device) : (t.advancePtr x).lock = t.lock := by
  simp [Target.advancePtr]

@[simp] theorem Target.known_advancePtr (t : Target) (x : Device) : (t.advancePtr x).known = t.known := by
  simp [Target.advancePtr]

@[simp] theorem Target.ptr_advancePtr_same (t : Target) (x : Device) : (t.advancePtr x).ptr x = t.ptr x + 1#8 := by
  simp [Target.advancePtr]

@[simp] theorem Target.ptr_store (t : Target) (x y : Device) (a v : Byte) : (t.store x a v).ptr y = t.ptr y := by
  cases x
  · cases y <;> rfl
  · simp only [Target.store]; split <;> cases y <;> rfl

@[simp] theorem Target.known_store (t : Target) (x : Device) (a v : Byte) : (t.store x a v).known = t.known := by
  cases x
  · rfl
  · simp only [Target.store]; split <;> rfl

/-- A store to one device leaves the other's bytes alone. -/
theorem Target.mem_store_other (t : Target) {x y : Device} (a v : Byte) (h : y ≠ x) : (t.store x a v).mem y = t.mem y := by
  cases x <;> cases y
  · exact absurd rfl h
  · rfl
  · simp only [Target.store]; split <;> rfl
  · exact absurd rfl h

/-- A store leaves every other address alone (R48). -/
theorem Target.read_store_other (t : Target) (x y : Device) {a b : Byte} (v : Byte) (h : y ≠ x ∨ b ≠ a) :
    Memory.read ((t.store x a v).mem y) b = Memory.read (t.mem y) b := by
  by_cases hxy : y = x
  · subst hxy
    have hb : b ≠ a := h.resolve_left (fun h' => h' rfl)
    cases y
    · exact Memory.read_write_other v hb
    · simp only [Target.store]
      split
      · rfl
      · exact Memory.read_write_other v hb
  · rw [Target.mem_store_other t a v hxy]

@[simp] theorem Target.mem_relock (t : Target) (x y : Device) (ds : List Byte) : (t.relock x ds).mem y = t.mem y := by
  unfold Target.relock
  split
  · cases y <;> rfl
  · rfl

@[simp] theorem Target.ptr_relock (t : Target) (x y : Device) (ds : List Byte) : (t.relock x ds).ptr y = t.ptr y := by
  unfold Target.relock
  split
  · cases y <;> rfl
  · rfl

@[simp] theorem Target.known_relock (t : Target) (x : Device) (ds : List Byte) : (t.relock x ds).known = t.known := by
  unfold Target.relock
  split <;> rfl

theorem Target.store_wf (t : Target) (x y : Device) (a v : Byte) (h : ∀ z, Memory.wf (t.mem z) = true) :
    Memory.wf ((t.store x a v).mem y) = true := by
  by_cases hxy : y = x
  · subst hxy
    cases y
    · exact Memory.write_wf a v (h .rtc)
    · simp only [Target.store]
      split
      · exact h .eeprom
      · exact Memory.write_wf a v (h .eeprom)
  · rw [Target.mem_store_other t a v hxy]
    exact h y

theorem Target.storeNext_wf (t : Target) (x y : Device) (v : Byte) (h : ∀ z, Memory.wf (t.mem z) = true) :
    Memory.wf ((Target.storeNext x t v).mem y) = true := by
  simpa [Target.storeNext] using t.store_wf x y (t.ptr x) v h

theorem Target.foldl_storeNext_wf (ds : List Byte) (t : Target) (x y : Device) (h : ∀ z, Memory.wf (t.mem z) = true) :
    Memory.wf ((ds.foldl (Target.storeNext x) t).mem y) = true := by
  induction ds generalizing t with
  | nil => exact h y
  | cons d ds ih => exact ih _ fun z => t.storeNext_wf x z d h

/-- Delivering a transaction keeps both stores canonical. -/
theorem Target.deliver_wf (t : Target) (x y : Device) (bytes : List Byte) (h : ∀ z, Memory.wf (t.mem z) = true) :
    Memory.wf ((t.deliver x bytes).mem y) = true := by
  cases bytes with
  | nil => exact h y
  | cons p ds =>
    simp only [Target.deliver, Target.mem_relock]
    exact Target.foldl_storeNext_wf ds _ x y fun z => by simpa using h z

@[simp] theorem Target.known_storeNext (t : Target) (x : Device) (v : Byte) : (Target.storeNext x t v).known = t.known := by
  simp [Target.storeNext]

theorem Target.known_foldl_storeNext (ds : List Byte) (t : Target) (x : Device) :
    (ds.foldl (Target.storeNext x) t).known = t.known := by
  induction ds generalizing t with
  | nil => rfl
  | cons d ds ih => simp [ih]

@[simp] theorem Target.known_deliver (t : Target) (x : Device) (bytes : List Byte) : (t.deliver x bytes).known = t.known := by
  cases bytes with
  | nil => rfl
  | cons p ds => simp [Target.deliver, Target.known_foldl_storeNext]

/-- A `RECV` changes no byte, not the lock, and not what is known (R49). -/
theorem State.targetAfterRecv_frame (s : State) :
    (∀ x, s.targetAfterRecv.mem x = s.target.mem x) ∧ s.targetAfterRecv.lock = s.target.lock ∧
      s.targetAfterRecv.known = s.target.known := by
  unfold State.targetAfterRecv
  split
  · exact ⟨fun _ => rfl, rfl, rfl⟩
  · split <;> simp

/-- An `END` does nothing to the target, or delivers the arriving bytes to one device (R46, R47, R53). -/
theorem State.targetAfterEnd_cases (s : State) :
    s.targetAfterEnd = s.target ∨
      ∃ a bytes x, s.bus.write = some (a, bytes) ∧ deviceAt s.cfg a = some x ∧
        s.targetAfterEnd = s.target.deliver x (s.env.arriving bytes) := by
  unfold State.targetAfterEnd
  split
  · exact .inl rfl
  · next a bytes hw =>
    split
    · exact .inl rfl
    · next x hx => exact .inr ⟨a, bytes, x, hw, hx, rfl⟩

end Sys2Proof.Machine
end

