-- ==== Sys2Proof/Tests/Slice0.lean ====
section
/-! SUPPORT. Tests: the configuration checks refuse ill-formed terms, every command's word as the spec's encoding gives it
decodes to it, one or two single steps a command with values from spec/95_test_vectors.md, and a witness for the hypotheses
of every statement that has some. -/

namespace Sys2Proof.Tests

open Sys2Proof.Machine

/-! ## Well-formed configurations (R6) -/

theorem test_suggested_wf : Config.suggested.wf = true := by decide
theorem test_same_device_refused : (Config.mk 0x6F 0x6F 0).devicesDiffer = false := by decide
theorem test_base_too_high_refused : (Config.mk 0x6F 0x57 0xFA).baseFits = false := by decide
theorem test_highest_base_fits : (Config.mk 0x6F 0x57 0xF9).wf = true := by decide
theorem test_base_over_unlock_refused : (Config.mk 0x6F 0x57 0x03).timeApart = false := by decide
theorem test_base_below_unlock_fits : (Config.mk 0x6F 0x57 0x02).wf = true := by decide
theorem test_base_into_sram_refused : (Config.mk 0x6F 0x57 0x1A).timeApart = false := by decide
theorem test_base_before_sram_fits : (Config.mk 0x6F 0x57 0x19).wf = true := by decide
theorem test_base_in_sram_refused : (Config.mk 0x6F 0x57 0x5F).timeApart = false := by decide
theorem test_base_after_sram_fits : (Config.mk 0x6F 0x57 0x60).wf = true := by decide

/-! ## Decoding: words written out from R60, R61 (fields OP, Z, B6 .. B0), or from section 2.7 of 95_test_vectors.md -/

theorem test_decode_dec2bcd :
    decode 0b0001000000000000000000000000000000000000000000000000000000111011#64 = .ok (.dec2bcd 59) := by decide
theorem test_decode_bcd2dec :
    decode 0b0010000000000000000000000000000000000000000000000000000001011001#64 = .ok (.bcd2dec 0x59) := by decide
theorem test_decode_setdt :
    decode 0b0011000000011000000001100001010000000011000010010000111100011110#64 = .ok (.setdt 30 15 9 3 20 6 24) := by
  decide
theorem test_decode_getdt : decode 0x4000000000000000#64 = .ok .getdt := by decide
theorem test_decode_clken : decode 0x5000000000000000#64 = .ok .clken := by decide
theorem test_decode_clkdis : decode 0x6000000000000000#64 = .ok .clkdis := by decide
theorem test_decode_baten : decode 0x7000000000000000#64 = .ok .baten := by decide
theorem test_decode_sramwr :
    decode 0b1000000000000000000000000000000000000000000000001010101100110000#64 = .ok (.sramwr 0x30 0xAB) := by decide
theorem test_decode_sramrd : decode 0x9000000000000030#64 = .ok (.sramrd 0x30) := by decide
theorem test_decode_idunlock : decode 0xA000000000000000#64 = .ok .idunlock := by decide
theorem test_decode_macwr :
    decode 0b1011000000000000010101100011010000010010101000110000010000000000#64 =
      .ok (.macwr 0x00 0x04 0xA3 0x12 0x34 0x56) := by decide
theorem test_decode_macrd : decode 0xC000000000000000#64 = .ok .macrd := by decide

theorem test_decode_zero_word : decode 0x0000000000000000#64 = .error .reservedOpcode := by decide
theorem test_decode_op_d : decode 0xD000000000000000#64 = .error .reservedOpcode := by decide
theorem test_decode_op_f : decode 0xF0FFFFFFFFFFFFFF#64 = .error .reservedOpcode := by decide
theorem test_decode_z : decode 0x4100000000000000#64 = .error .zFieldNotZero := by decide
theorem test_decode_unused_getdt : decode 0x4000000000000001#64 = .error .unusedOperandNotZero := by decide
theorem test_decode_unused_sramrd : decode 0x9000000000000130#64 = .error .unusedOperandNotZero := by decide
theorem test_decode_unused_macwr : decode 0xB001563412A30400#64 = .error .unusedOperandNotZero := by decide
theorem test_decode_unused_dec2bcd : decode 0x1000000000000100#64 = .error .unusedOperandNotZero := by decide
theorem test_decode_table_word : decodeTableWord 64 0x8000000000000000 = some (.sramwr 0 0) := by decide
theorem test_decode_table_word_too_long : decodeTableWord 72 0 = none := by decide

/-! ## Small states -/

/-- A reset machine to which the host presents words. -/
def idleWith (ws : List CmdWord) : State := { State.reset with host := ws }

/-- A reset machine with command `i` accepted and `k` events emitted, holding byte `r` as the first byte received. -/
def busyAt (i : Instr) (k : Nat) (r : Byte) : State :=
  let s := { State.reset with phase := .busy, cmd := encode i, seq := k, rxbuf := Buf.single r }
  { s with bus := busAfter ((s.traceOf i).take k) }

/-- What a step leaves, seen through `f`. -/
def seen {α : Type} (f : State → α) (o : Answer) : Option α :=
  match o with
  | .next t => some (f t)
  | .fault _ => none
  | .refused _ => none

/-- The last event emitted. -/
def lastEvent (s : State) : Option Event := s.events.getLast?

/-! ## Single steps (values from 95_test_vectors.md) -/

theorem test_dec2bcd_59 : seen (·.res.b0) (step (idleWith [0x100000000000003B#64])) = some 0x59#8 := by decide
theorem test_dec2bcd_255 : seen (·.res.b0) (exec (.dec2bcd 255) State.reset) = some 0x95#8 := by decide
theorem test_bcd2dec_59 : seen (·.res.b0) (step (idleWith [0x2000000000000059#64])) = some 59#8 := by decide
theorem test_bcd2dec_ff : seen (·.res.b0) (exec (.bcd2dec 0xFF) State.reset) = some 165#8 := by decide
theorem test_setdt_dow_byte : seen lastEvent (step (busyAt (.setdt 30 15 9 3 20 6 24) 5 0)) = some (some (.queue 0x0B)) := by
  decide
theorem test_setdt_second_85 :
    seen lastEvent (step (busyAt (.setdt 85 0 40 8 0 20 160) 12 0)) = some (some (.queue 0x85)) := by decide
theorem test_getdt_result :
    seen (·.res) (step { busyAt .getdt 11 0 with rxbuf := ⟨0xFA, 0x0A, 0x7F, 0xF0, 0xFF, 0xFF, 0xFF⟩ }) =
      some ⟨80, 10, 45, 0, 45, 25, 165⟩ := by decide
theorem test_getdt_request : seen lastEvent (step (busyAt .getdt 3 0)) = some (some (.req 0x6F 7)) := by decide
theorem test_clken_1a : seen lastEvent (step (busyAt .clken 7 0x1A)) = some (some (.queue 0xA0)) := by decide
theorem test_clken_b0 : seen lastEvent (step (busyAt .clken 7 0xB0)) = some (some (.queue 0xB0)) := by decide
theorem test_clkdis_ff : seen lastEvent (step (busyAt .clkdis 7 0xFF)) = some (some (.queue 0x05)) := by decide
theorem test_clkdis_b0 : seen lastEvent (step (busyAt .clkdis 7 0xB0)) = some (some (.queue 0x30)) := by decide
theorem test_baten_35 : seen lastEvent (step (busyAt .baten 7 0x35)) = some (some (.queue 0x0D)) := by decide
theorem test_baten_pointer : seen lastEvent (step (busyAt .baten 6 0x35)) = some (some (.queue 0x03)) := by decide
theorem test_sramwr_stores :
    seen (·.target.rtcmem) (step (busyAt (.sramwr 0x5F 0x01) 3 0)) = some [(0x5F, 0x01#8)] := by decide
theorem test_sramwr_1f :
    seen (fun t => (t.status.range, t.events, t.phase)) (step (idleWith [0x800000000000AB1F#64])) =
      some (true, [], .idle) := by decide
theorem test_sramrd_receives :
    seen (·.rxbuf.b0) (step { busyAt (.sramrd 0x30) 4 0 with
      target := ⟨[(0x30, 0xAB#8)], [], 0x30, 0, .locked, true⟩ }) = some 0xAB#8 := by decide
theorem test_sramrd_60 :
    seen (fun t => (t.status.range, t.res.b1, t.draws)) (step (idleWith [0x9000000000000060#64])) =
      some (true, 0#8, 1) := by decide
theorem test_idunlock_half : seen (·.target.lock) (step (busyAt .idunlock 3 0)) = some .half := by decide
theorem test_idunlock_unlocked :
    seen (·.target.lock) (step { busyAt .idunlock 7 0 with target := ⟨[], [], 0, 0, .half, true⟩ }) =
      some .unlocked := by decide
theorem test_macwr_locked :
    seen (fun t => (t.target.eemem, t.target.ptrEeprom)) (step (busyAt (.macwr 1 2 3 4 5 6) 8 0)) =
      some ([], 0xF8#8) := by decide
theorem test_macwr_unlocked :
    seen (fun t => (t.target.eemem, t.target.lock)) (step { busyAt (.macwr 0 4 0xA3 0x12 0x34 0x56) 8 0 with
      target := ⟨[], [(0xF2, 0x11#8)], 0, 0, .unlocked, true⟩ }) =
      some ([(0xF3, 0x04#8), (0xF4, 0xA3#8), (0xF5, 0x12#8), (0xF6, 0x34#8), (0xF7, 0x56#8)], .locked) := by decide
theorem test_macrd_result :
    seen (·.res) (step { busyAt .macrd 10 0 with rxbuf := ⟨0x00, 0x04, 0xA3, 0x12, 0x34, 0x56, 0xFF⟩ }) =
      some ⟨0x00, 0x04, 0xA3, 0x12, 0x34, 0x56, 0x00⟩ := by decide
theorem test_macrd_address : seen lastEvent (step (busyAt .macrd 3 0)) = some (some (.req 0x57 6)) := by decide

/-! ## Other single steps -/

theorem test_malformed_word :
    seen (fun t => (t.status, t.phase, t.events)) (step (idleWith [0x4100000000000000#64])) =
      some (⟨false, true⟩, .idle, []) := by decide
theorem test_idle_waits : seen (fun t => decide (t = State.reset)) (step State.reset) = some true := by decide
theorem test_prefix_of_four :
    seen (fun t => (t.target.rtcmem, t.target.ptrRtc)) (step { busyAt (.setdt 30 15 9 3 20 6 24) 9 0 with
      env := ⟨[4], [], none⟩ }) = some ([(0, 0x30#8), (1, 0x15#8), (2, 0x09#8)], 0x03#8) := by decide
theorem test_half_lock_dropped :
    seen (·.target.lock) (step { busyAt (.sramwr 0x30 0) 3 0 with target := ⟨[], [], 0, 0, .half, true⟩ }) =
      some .locked := by decide
theorem test_two_keys_in_one_transaction :
    ((State.reset.target.deliver .rtc [0x09, 0x55, 0xAA]).lock) = .locked := by decide
theorem test_reset_of_a_hung_block (n : Nat) :
    ({ busyAt .getdt 5 0 with env := ⟨[], [], some 0⟩, draws := n } : State).blockReset.env = Config.anyEnv n := rfl
theorem test_reset_of_busy_block :
    seen (fun t => (t.phase, t.target.known)) (step { busyAt .getdt 5 0 with resetIn := true }) =
      some (.idle, false) := by decide
theorem test_first_step_after_reset :
    seen (fun t => (t.phase, t.cmd, t.seq)) (step (State.reset.withFetchWord 64 0x3000000000000000)) =
      some (.busy, 0x3000000000000000#64, 0) := by decide

/-! ## Witnesses: states that meet the hypotheses of the statements -/

/-- The three clauses of `WalksTrace` for a command with `n` events: acceptance, the first and the last event, completion. -/
def walkWitness (i : Instr) (n : Nat) : Bool :=
  decide ((idleWith [encode i]).phase = .idle) &&
  decide ((busyAt i 0 0).phase = .busy) && decide ((busyAt i 0 0).env.returns ≠ some 0) &&
  (((busyAt i 0 0).traceOf i)[(busyAt i 0 0).seq]?).isSome &&
  decide ((busyAt i (n - 1) 0).phase = .busy) && decide ((busyAt i (n - 1) 0).env.returns ≠ some 0) &&
  (((busyAt i (n - 1) 0).traceOf i)[(busyAt i (n - 1) 0).seq]?).isSome &&
  decide ((busyAt i n 0).phase = .busy) && decide ((busyAt i n 0).seq = ((busyAt i n 0).traceOf i).length)

theorem witness_SetdtWritesTheTimeRegisters : walkWitness (.setdt 59 59 23 7 31 12 99) 14 = true := by decide
theorem witness_GetdtReadsTheTimeRegisters : walkWitness .getdt 11 = true := by decide
theorem witness_ClkenRewritesTheSecondsWithBitSevenSet : walkWitness .clken 9 = true := by decide
theorem witness_ClkdisRewritesTheSecondsWithBitSevenClear : walkWitness .clkdis 9 = true := by decide
theorem witness_BatenRewritesTheDayOfWeekWithBitThreeSet : walkWitness .baten 9 = true := by decide
theorem witness_SramwrWritesOnlyInsideTheWindow_low : walkWitness (.sramwr 0x20 0) 4 = true := by decide
theorem witness_SramwrWritesOnlyInsideTheWindow_high : walkWitness (.sramwr 0x5F 0xFF) 4 = true := by decide
theorem witness_SramwrWritesOnlyInsideTheWindow_outside :
    ¬(0x20 ≤ (0x1F#8).toNat ∧ (0x1F#8).toNat ≤ 0x5F) ∧ ¬(0x20 ≤ (0x60#8).toNat ∧ (0x60#8).toNat ≤ 0x5F) ∧
      (idleWith [encode (.sramwr 0x1F 0)]).phase = .idle := by decide
theorem witness_SramrdReadsOnlyInsideTheWindow_low : walkWitness (.sramrd 0x20) 5 = true := by decide
theorem witness_SramrdReadsOnlyInsideTheWindow_high : walkWitness (.sramrd 0x5F) 5 = true := by decide
theorem witness_SramrdReadsOnlyInsideTheWindow_outside :
    ¬(0x20 ≤ (0x1F#8).toNat ∧ (0x1F#8).toNat ≤ 0x5F) ∧ ¬(0x20 ≤ (0x60#8).toNat ∧ (0x60#8).toNat ≤ 0x5F) ∧
      (idleWith [encode (.sramrd 0x60)]).phase = .idle := by decide
theorem witness_IdunlockWritesTheTwoKeys : walkWitness .idunlock 8 = true := by decide
theorem witness_MacwrWritesTheSixBytes : walkWitness (.macwr 0xFF 0xFF 0xFF 0xFF 0xFF 0xFF) 9 = true := by decide
theorem witness_MacrdReadsTheSixBytes : walkWitness .macrd 10 = true := by decide

theorem witness_EncodeOfDecodeIsTheWord : decode 0xB000FFFFFFFFFFFF#64 = .ok (.macwr 255 255 255 255 255 255) := by decide

theorem witness_Dec2bcdWritesTheBcdByte : (idleWith [encode (.dec2bcd 160)]).phase = .idle := by decide
theorem witness_Bcd2decWritesTheDecimalValue : (idleWith [encode (.bcd2dec 0xFF)]).phase = .idle := by decide

theorem witness_BcdRoundTripLaws :
    (99#8).toNat ≤ 99 ∧ validBcd 0x99 = true ∧ validBcd 0x00 = true ∧ decToBcd 99 = decToBcd 99 := by decide

theorem witness_NormalisingAByte :
    (0x79#8).toNat ≤ 0x7F ∧ validBcd 0x79 = true ∧ 10 ≤ (0x7F#8).toNat % 16 ∧ (0x7F#8).toNat ≤ 0x7F ∧
      0x7A ≤ (0x7A#8).toNat ∧ (0x07#8).toNat ≤ 0x07 := by decide

theorem witness_WriteMasksHoldEveryLegalValue :
    (59#8).toNat ≤ 59 ∧ (23#8).toNat ≤ 23 ∧ (1 ≤ (7#8).toNat ∧ (7#8).toNat ≤ 7) ∧ (1 ≤ (31#8).toNat ∧ (31#8).toNat ≤ 31) ∧
      (1 ≤ (12#8).toNat ∧ (12#8).toNat ≤ 12) ∧ (99#8).toNat ≤ 99 := by decide

theorem witness_BytesWrittenBackKeepTheData : validBcd (0xF9#8 &&& 0x7F#8) = true := by decide

theorem witness_AcceptanceLatchesTheCommandWord_events :
    (idleWith [encode .getdt]).cfg.wf = true ∧ (idleWith [encode .getdt]).resetIn = false ∧
      (idleWith [encode .getdt]).phase = .idle ∧ (idleWith [encode .getdt]).host.head? = some (encode .getdt) ∧
      decode (encode .getdt) = .ok .getdt ∧ (idleWith [encode .getdt]).traceOf .getdt ≠ [] := by decide
theorem witness_AcceptanceLatchesTheCommandWord_empty :
    (idleWith [encode (.sramrd 0x60)]).cfg.wf = true ∧ (idleWith [encode (.sramrd 0x60)]).resetIn = false ∧
      (idleWith [encode (.sramrd 0x60)]).phase = .idle ∧
      (idleWith [encode (.sramrd 0x60)]).host.head? = some (encode (.sramrd 0x60)) ∧
      decode (encode (.sramrd 0x60)) = .ok (.sramrd 0x60) ∧
      (idleWith [encode (.sramrd 0x60)]).traceOf (.sramrd 0x60) = [] := by decide

/-- A busy state part-way through its trace meets `Sequenced`. -/
theorem sequenced_busyAt {i : Instr} {k : Nat} {r : Byte} (hd : decode (encode i) = .ok i)
    (hne : (busyAt i k r).traceOf i ≠ []) (hk : k ≤ ((busyAt i k r).traceOf i).length) : Sequenced (busyAt i k r) :=
  ⟨i, hd, hne, hk, rfl⟩

theorem witness_sequenced_clken : Sequenced (busyAt .clken 8 0x30) :=
  sequenced_busyAt (by decide) (by decide) (by decide)

theorem witness_AcceptanceLatchesTheCommandWord_busy :
    Sequenced (busyAt .clken 8 0x30) ∧ (busyAt .clken 8 0x30).phase = .busy ∧
      (busyAt .clken 8 0x30).resetIn = false ∧ ∃ t, step (busyAt .clken 8 0x30) = .next t :=
  ⟨witness_sequenced_clken, rfl, rfl, _, rfl⟩

theorem witness_StepRunsTheDecodedCommand :
    ((busyAt .clken 8 0x30).cfg.wf = true ∧ (busyAt .clken 8 0x30).resetIn = false ∧
      (busyAt .clken 8 0x30).phase = .busy ∧ decode (busyAt .clken 8 0x30).cmd = .ok .clken) ∧
    (State.reset.cfg.wf = true ∧ State.reset.resetIn = false ∧ State.reset.phase = .idle ∧ State.reset.host = []) := by
  decide

theorem witness_ExecutionFollowsTheTrace :
    ((busyAt .clken 4 0).phase = .busy ∧ (busyAt .clken 4 0).env.returns ≠ some 0 ∧
      ((busyAt .clken 4 0).traceOf .clken)[(busyAt .clken 4 0).seq]? = some .recv) ∧
    ((busyAt .clken 9 0).phase = .busy ∧ (busyAt .clken 9 0).seq = ((busyAt .clken 9 0).traceOf .clken).length) ∧
    ¬((8 : Nat) = 7 ∧ (Instr.clken = .clken ∨ Instr.clken = .clkdis ∨ Instr.clken = .baten)) := by decide

theorem witness_Presents (i : Instr) : Presents i (idleWith [encode i]) := ⟨(show Config.suggested.wf = true by decide), rfl, rfl, rfl⟩

theorem witness_NoFailure (ws : List CmdWord) : NoFailure (idleWith ws) ∧ MemoryCanonical (idleWith ws) :=
  ⟨⟨rfl, rfl⟩, by constructor <;> rfl⟩

theorem witness_EveryCommandRunsToCompletion :
    Presents .macrd (idleWith [encode .macrd]) ∧ (idleWith [encode .macrd]).env.returns = none :=
  ⟨witness_Presents .macrd, rfl⟩

theorem witness_ABlockedPrimitiveHangsTheBlock :
    let s := { busyAt .getdt 10 0 with env := ⟨[], [], some 0⟩ }
    s.cfg.wf = true ∧ s.resetIn = false ∧ s.phase = .busy ∧ decode s.cmd = .ok .getdt ∧
      s.seq < (s.traceOf .getdt).length ∧ s.env.returns = some 0 := by decide

theorem witness_AFailureDoesNotChangeTheTrace :
    let s := busyAt .getdt 5 0
    let s' := { busyAt .getdt 5 0xFF with env := ⟨[0], [.lost true], none⟩, bus := ⟨none, none⟩ }
    s.cfg = s'.cfg ∧ s.phase = s'.phase ∧ s.seq = s'.seq ∧ s.cmd = s'.cmd ∧ s.status = s'.status ∧
      s.events = s'.events ∧ s.env.returns = s'.env.returns ∧
      ¬(s.phase = .busy ∧ s.seq = 7 ∧ writesBack .getdt = true) := by decide

theorem witness_AFailureDoesNotChangeTheTrace_written_back :
    let s := busyAt .clken 7 0x30
    let s' := busyAt .clken 7 0x31
    s.cfg = s'.cfg ∧ s.phase = s'.phase ∧ s.seq = s'.seq ∧ s.cmd = s'.cmd ∧ s.status = s'.status ∧
      s.events = s'.events ∧ s.env.returns = s'.env.returns ∧
      s.phase = .busy ∧ s.seq = 7 ∧ writesBack .clken = true ∧ (busyAt .clken 7 0x30).rxbuf = s.rxbuf := by decide

theorem witness_EndStoresThePendingBytes :
    MemoryCanonical (busyAt (.macwr 1 2 3 4 5 6) 8 0) ∧
      (busyAt (.macwr 1 2 3 4 5 6) 8 0).bus.write = some (0x57, [0xF2, 1, 2, 3, 4, 5, 6]) ∧
      deviceAt (busyAt (.macwr 1 2 3 4 5 6) 8 0).cfg 0x57 = some .eeprom ∧
      (busyAt (.macwr 1 2 3 4 5 6) 8 0).env.delivered = [] ∧ [1#8, 2, 3, 4, 5, 6].length ≤ 256 :=
  ⟨by constructor <;> rfl, by decide, by decide, rfl, by decide⟩

theorem witness_AFailedWriteDeliversAPrefix :
    let s := { busyAt (.sramwr 0x30 0xAB) 3 0 with env := ⟨[1], [], none⟩ }
    s.bus.write = some (0x6F, [0x30, 0xAB]) ∧ deviceAt s.cfg 0x6F = some .rtc ∧ s.env.delivered = [1] := by decide
theorem witness_AFailedWriteDeliversAPrefix_nothing :
    let s := { busyAt (.sramwr 0x30 0xAB) 3 0 with env := ⟨[0], [], none⟩ }
    s.bus.write = some (0x6F, [0x30, 0xAB]) ∧ deviceAt s.cfg 0x6F = some .rtc ∧ s.env.delivered = [0] := by decide
theorem witness_AFailedWriteDeliversAPrefix_all :
    let s := { busyAt (.sramwr 0x30 0xAB) 3 0 with env := ⟨[2], [], none⟩ }
    s.bus.write = some (0x6F, [0x30, 0xAB]) ∧ deviceAt s.cfg 0x6F = some .rtc ∧ s.env.delivered = [2] ∧
      [0xAB#8].length + 1 ≤ 2 := by decide

theorem witness_ALostRecvReturnsAny8 :
    let s := { busyAt .macrd 4 0 with env := ⟨[], [.lost true], none⟩ }
    s.env.recvs = [.lost true] ∧ s.target.known = true ∧ s.readDevice = some .eeprom := by decide

theorem witness_BeginLoadsTheBurstIntoTxbuf :
    let s := busyAt (.setdt 30 15 9 3 20 6 24) 0 0
    s.phase = .busy ∧ s.env.returns ≠ some 0 ∧
      (s.traceOf (.setdt 30 15 9 3 20 6 24))[s.seq]? = some (.beginT 0x6F) ∧
      ∀ j : Fin 7, ∃ v ∈ setdtBurst 30 15 9 3 20 6 24,
        (s.traceOf (.setdt 30 15 9 3 20 6 24))[s.seq + 2 + j.val]? = some (.queue v) := by decide
theorem witness_BeginLoadsTheBurstIntoTxbuf_short :
    let s := busyAt (.setdt 30 15 9 3 20 6 24) 10 0
    s.phase = .busy ∧ (s.traceOf (.setdt 30 15 9 3 20 6 24))[s.seq]? = some (.beginT 0x6F) ∧
      (s.traceOf (.setdt 30 15 9 3 20 6 24))[s.seq + 2 + 1]? = some .endT := by decide

theorem witness_RecvReturnsTheByteAtThePointer :
    NoFailure (idleWith []) ∧ deviceAt (idleWith []).cfg 0x57 = some .eeprom ∧ (5 : Nat) ≤ 6 ∧ (5 : Nat) < 6 :=
  ⟨(witness_NoFailure _).1, by decide, by decide, by decide⟩

theorem witness_TracesAreTransactionUnits : (7 : Nat) ∈ [0, 1, 6, 7] ∧ (6 : Nat) ∈ [1, 6, 7] := by decide

theorem witness_SetThenGetReadsBack :
    let s := idleWith [encode (.setdt 59 59 23 7 31 12 99), encode .getdt]
    Presents (.setdt 59 59 23 7 31 12 99) s ∧ NoFailure s ∧ MemoryCanonical s ∧
      s.host.tail.head? = some (encode .getdt) ∧ (59#8).toNat ≤ 59 ∧ (23#8).toNat ≤ 23 ∧ 1 ≤ (31#8).toNat ∧
      (31#8).toNat ≤ 31 ∧ 1 ≤ (12#8).toNat ∧ (12#8).toNat ≤ 12 ∧ (99#8).toNat ≤ 99 ∧ 1 ≤ (7#8).toNat ∧
      (7#8).toNat ≤ 9 ∧ (7#8).toNat ≤ 7 ∧ 8 ≤ (8#8).toNat ∧ (8#8).toNat ≤ 9 :=
  ⟨⟨by decide, rfl, rfl, rfl⟩, (witness_NoFailure _).1, (witness_NoFailure _).2, rfl, by decide⟩

theorem witness_SetThenGetReadsBack_dow_eight :
    let s := idleWith [encode (.setdt 0 0 0 8 1 1 0), encode .getdt]
    Presents (.setdt 0 0 0 8 1 1 0) s ∧ NoFailure s ∧ MemoryCanonical s ∧ s.host.tail.head? = some (encode .getdt) ∧
      (0#8).toNat ≤ 59 ∧ 1 ≤ (1#8).toNat ∧ 8 ≤ (8#8).toNat ∧ (8#8).toNat ≤ 9 :=
  ⟨witness_Presents _, (witness_NoFailure _).1, (witness_NoFailure _).2, rfl, by decide⟩

theorem witness_ClockAndBatteryCommandsKeepTheData :
    NoFailure (idleWith [encode .clkdis]) ∧ MemoryCanonical (idleWith [encode .clkdis]) ∧
      Presents .clken (idleWith [encode .clken]) ∧ Presents .clkdis (idleWith [encode .clkdis]) ∧
      Presents .baten (idleWith [encode .baten]) ∧
      validBcd ((idleWith [encode .clkdis]).byteAt .rtc (idleWith [encode .clkdis]).cfg.rtcTimeBase &&& 0x7F#8) = true :=
  ⟨(witness_NoFailure _).1, (witness_NoFailure _).2, witness_Presents _, witness_Presents _, witness_Presents _, by decide⟩

theorem witness_SramWriteThenReadReturnsTheByte :
    let s := idleWith [encode (.sramwr 0x20 0xAB), encode (.sramrd 0x20)]
    Presents (.sramwr 0x20 0xAB) s ∧ NoFailure s ∧ MemoryCanonical s ∧
      s.host.tail.head? = some (encode (.sramrd 0x20)) ∧ 0x20 ≤ (0x20#8).toNat ∧ (0x20#8).toNat ≤ 0x5F :=
  ⟨⟨by decide, rfl, rfl, rfl⟩, (witness_NoFailure _).1, (witness_NoFailure _).2, rfl, by decide⟩

theorem witness_UnlockWriteReadReturnsTheAddress :
    let s := idleWith [encode .idunlock, encode (.macwr 1 2 3 4 5 6), encode .macrd]
    Presents .idunlock s ∧ NoFailure s ∧ MemoryCanonical s ∧
      s.host.tail.take 2 = [encode (.macwr 1 2 3 4 5 6), encode .macrd] :=
  ⟨⟨by decide, rfl, rfl, rfl⟩, (witness_NoFailure _).1, (witness_NoFailure _).2, rfl⟩

theorem witness_MacwrWithoutUnlockIsIgnored :
    let s := idleWith [encode (.macwr 1 2 3 4 5 6)]
    Presents (.macwr 1 2 3 4 5 6) s ∧ NoFailure s ∧ MemoryCanonical s ∧ s.target.lock ≠ .unlocked :=
  ⟨witness_Presents _, (witness_NoFailure _).1, (witness_NoFailure _).2, by decide⟩

theorem witness_SetdtLeavesClockAndBatteryEnabled :
    let s := idleWith [encode (.setdt 30 15 9 3 20 6 24)]
    Presents (.setdt 30 15 9 3 20 6 24) s ∧ NoFailure s ∧ MemoryCanonical s :=
  ⟨witness_Presents _, (witness_NoFailure _).1, (witness_NoFailure _).2⟩

theorem witness_ALocationKeepsTheLastByteStored : MemoryCanonical (idleWith []) ∧ NoFailure (idleWith []) :=
  ⟨(witness_NoFailure _).2, (witness_NoFailure _).1⟩

theorem witness_StepKeepsMemoryCanonical :
    MemoryCanonical (busyAt (.sramwr 0x30 0xAB) 3 0) ∧ ∃ t, step (busyAt (.sramwr 0x30 0xAB) 3 0) = .next t :=
  ⟨by constructor <;> rfl, _, rfl⟩

theorem witness_StepKeepsTheSequencer :
    Sequenced (busyAt .clken 8 0x30) ∧ ∃ t, step (busyAt .clken 8 0x30) = .next t :=
  ⟨witness_sequenced_clken, _, rfl⟩

theorem witness_StepKeepsFlagDiscipline :
    Sequenced (busyAt .clken 8 0x30) ∧ FlagDiscipline (busyAt .clken 8 0x30) ∧
      ∃ t, step (busyAt .clken 8 0x30) = .next t :=
  ⟨witness_sequenced_clken, ⟨by decide, fun _ => rfl⟩, _, rfl⟩

theorem witness_ConfigurationIsFixedAndEventsOnlyGrow : ∃ t, step (busyAt .clken 8 0x30) = .next t := ⟨_, rfl⟩

theorem witness_StatusTellsTheLastCommand_idle :
    Sequenced (idleWith [encode (.sramwr 0x1F 0)]) ∧ (idleWith [encode (.sramwr 0x1F 0)]).resetIn = false ∧
      (∃ t, step (idleWith [encode (.sramwr 0x1F 0)]) = .next t) ∧
      (idleWith [encode (.sramwr 0x1F 0)]).fetch = .run (.sramwr 0x1F 0) :=
  ⟨rfl, rfl, ⟨_, rfl⟩, by decide⟩

theorem witness_StatusTellsTheLastCommand_malformed :
    Sequenced (idleWith [0#64]) ∧ (∃ t, step (idleWith [0#64]) = .next t) ∧
      (idleWith [0#64]).fetch = .malformed 0#64 ∧ (idleWith [0#64]).phase = .idle :=
  ⟨rfl, ⟨_, rfl⟩, by decide, rfl⟩

theorem witness_StatusTellsTheLastCommand_wait : Sequenced State.reset ∧ State.reset.fetch = .wait := ⟨rfl, by decide⟩

theorem witness_StatusTellsTheLastCommand_busy :
    Sequenced (busyAt .clken 9 0x30) ∧ seen (·.phase) (step (busyAt .clken 9 0x30)) = some .idle ∧
      Sequenced (busyAt .clken 8 0x30) ∧ seen (·.phase) (step (busyAt .clken 8 0x30)) = some .busy :=
  ⟨sequenced_busyAt (by decide) (by decide) (by decide), by decide, witness_sequenced_clken, by decide⟩

theorem witness_AMalformedWordOnlySetsTheFlag :
    let s := idleWith [0xF0FFFFFFFFFFFFFF#64]
    s.cfg.wf = true ∧ s.resetIn = false ∧ s.phase = .idle ∧ s.host.head? = some 0xF0FFFFFFFFFFFFFF#64 ∧
      MalformedWord 0xF0FFFFFFFFFFFFFF#64 :=
  ⟨by decide, rfl, rfl, rfl, trivial⟩

theorem witness_malformed_by_operand : MalformedWord 0x4000000000000001#64 :=
  .inr ⟨0, by decide, by decide, by decide⟩

theorem witness_TheResetInputResetsTheBlockOnly :
    ({ State.reset with resetIn := true } : State).cfg.wf = true ∧
      ({ State.reset with resetIn := true } : State).resetIn = true ∧
      ({ State.reset with resetIn := true } : State).phase = .idle ∧
      ({ State.reset with resetIn := true } : State).host = [] := by decide

theorem witness_TheResetInputResetsTheBlockOnly_busy :
    let s := { busyAt .getdt 5 0 with resetIn := true }
    s.cfg.wf = true ∧ s.resetIn = true ∧ s.phase = .busy ∧ s.bus ≠ ⟨none, none⟩ ∧ s.host = [] := by decide

theorem witness_AResetOfABusyBlockLosesTheTarget_hung :
    let s := { busyAt .getdt 5 0 with resetIn := true, env := ⟨[], [], some 0⟩ }
    s.resetIn = true ∧ s.phase = .busy ∧ ∃ t, step s = .next t :=
  ⟨rfl, rfl, _, rfl⟩

theorem witness_AResetOfABusyBlockLosesTheTarget :
    let s := { busyAt .getdt 5 0 with resetIn := true }
    s.resetIn = true ∧ s.phase = .busy ∧ ∃ t, step s = .next t :=
  ⟨rfl, rfl, _, rfl⟩

theorem witness_AResetOfABusyBlockLosesTheTarget_unknown :
    let s := { busyAt .getdt 4 0 with target := ⟨[], [], 0, 0, .locked, false⟩ }
    s.target.known = false ∧ ∃ t, step s = .next t :=
  ⟨rfl, _, rfl⟩

theorem witness_HostReadsOnlyInIdle :
    (busyAt .getdt 5 0).phase = .busy ∧ State.reset.phase = .idle ∧ State.reset.resWritten = false ∧
      ({ State.reset with resWritten := true } : State).resWritten = true := by decide

theorem witness_EndOfMacwr : Sequenced (busyAt (.macwr 1 2 3 4 5 6) 8 0) :=
  sequenced_busyAt (by decide) (by decide) (by decide)

theorem witness_ExecFrame_recv :
    let s := { busyAt .macrd 4 0 with env := ⟨[], [.lost true], none⟩ }
    (s.traceOf .macrd)[s.seq]? = some .recv ∧ s.answering = none ∧ (∃ t, exec .macrd s = .next t) :=
  ⟨by decide, by decide, _, rfl⟩

theorem witness_ExecFrame : ∃ t, exec .clken (busyAt .clken 8 0x30) = .next t := ⟨_, rfl⟩

theorem witness_OnlyDeliveredBytesAreStored :
    (busyAt (.macwr 1 2 3 4 5 6) 8 0).target.known = true ∧
      (∃ t, exec (.macwr 1 2 3 4 5 6) (busyAt (.macwr 1 2 3 4 5 6) 8 0) = .next t) ∧
      ((busyAt (.macwr 1 2 3 4 5 6) 8 0).traceOf (.macwr 1 2 3 4 5 6))[8]? = some .endT ∧
      (busyAt (.macwr 1 2 3 4 5 6) 8 0).storesAt .endT .eeprom 0xF8 = false ∧
      (busyAt (.macwr 1 2 3 4 5 6) 8 0).storesAt .endT .eeprom 0xF7 = true :=
  ⟨rfl, ⟨_, rfl⟩, by decide, by decide, by decide⟩

theorem witness_CommandsKeepToTheirRegisters :
    let s := busyAt (.macwr 1 2 3 4 5 6) 8 0
    s.cfg.wf = true ∧ Sequenced s ∧ s.target.known = true ∧ decode s.cmd = .ok (.macwr 1 2 3 4 5 6) ∧
      (∃ t, exec (.macwr 1 2 3 4 5 6) s = .next t) ∧ mayStore s.cfg .eeprom 0xF8 (.macwr 1 2 3 4 5 6) = false :=
  ⟨by decide, witness_EndOfMacwr, rfl, by decide, ⟨_, rfl⟩, by decide⟩

theorem witness_ReadingCommandsStoreNothing :
    let s := busyAt .macrd 2 0
    storesNothing .macrd = true ∧ Sequenced s ∧ s.target.known = true ∧ decode s.cmd = .ok .macrd ∧
      ∃ t, exec .macrd s = .next t :=
  ⟨rfl, sequenced_busyAt (by decide) (by decide) (by decide), rfl, by decide, _, rfl⟩

theorem witness_SramwrTouchesNoTimeRegister :
    let s := busyAt (.sramwr 0x20 0xAB) 3 0
    s.cfg.wf = true ∧ Sequenced s ∧ s.target.known = true ∧ decode s.cmd = .ok (.sramwr 0x20 0xAB) ∧
      (∃ t, exec (.sramwr 0x20 0xAB) s = .next t) ∧ s.target.lock ≠ .half :=
  ⟨by decide, sequenced_busyAt (by decide) (by decide) (by decide), rfl, by decide, ⟨_, rfl⟩, by decide⟩

end Sys2Proof.Tests
end

section
/-! The scope statements (spec 00_scope.md): what every step keeps of the configuration and the events emitted, and which
configurations the machine refuses. -/

namespace Sys2Proof.Machine

/-! ## What a step keeps -/

@[simp] theorem finishOf_cfg (rx : Buf) (i : Instr) (s : State) : (finishOf rx i s).cfg = s.cfg := by
  obtain ⟨-, hcfg, -⟩ := finishOf_frame rx i s
  exact hcfg

@[simp] theorem finishOf_events (rx : Buf) (i : Instr) (s : State) : (finishOf rx i s).events = s.events := by
  obtain ⟨-, -, -, -, -, -, -, -, -, -, -, -, hev, -⟩ := finishOf_frame rx i s
  exact hev

/-- Everything one step of a command can do: complete at acceptance, be accepted, hang, emit its next event, complete
(R103, R104, R44). -/
theorem exec_cases {i : Instr} {s t : State} (h : exec i s = .next t) :
    (s.phase = .idle ∧ s.traceOf i = [] ∧ t = (finishOf s.rxbuf i (s.accept (encode i))).toIdle) ∨
    (s.phase = .idle ∧ s.traceOf i ≠ [] ∧ t = s.accept (encode i)) ∨
    (∃ e, s.phase = .busy ∧ (s.traceOf i)[s.seq]? = some e ∧ s.env.returns = some 0 ∧ t = s) ∨
    (∃ e, s.phase = .busy ∧ (s.traceOf i)[s.seq]? = some e ∧ s.env.returns ≠ some 0 ∧ t = s.emit (s.traceOf i) e) ∨
    (s.phase = .busy ∧ (s.traceOf i).length ≤ s.seq ∧ t = (finishOf s.rxbuf i s).toIdle) :=
  runCommand_cases (exec_eq_runCommand i s ▸ h)

theorem exec_keeps_cfg {i : Instr} {s t : State} (h : exec i s = .next t) : t.cfg = s.cfg := by
  obtain ⟨-, -, rfl⟩ | ⟨-, -, rfl⟩ | ⟨e, -, -, -, rfl⟩ | ⟨e, -, -, -, rfl⟩ | ⟨-, -, rfl⟩ := exec_cases h
  all_goals simp

/-- R104: a step of a command emits no event, or one, after all earlier ones. -/
theorem exec_appends_at_most_one_event {i : Instr} {s t : State} (h : exec i s = .next t) :
    t.events = s.events ∨ ∃ e, t.events = s.events ++ [e] := by
  obtain ⟨-, -, rfl⟩ | ⟨-, -, rfl⟩ | ⟨e, -, -, -, rfl⟩ | ⟨e, -, -, -, rfl⟩ | ⟨-, -, rfl⟩ := exec_cases h
  · exact .inl (by simp)
  · exact .inl (State.accept_events s _)
  · exact .inl rfl
  · exact .inr ⟨e, State.emit_events s _ e⟩
  · exact .inl (by simp)

/-- Settles O48, by the ways a step can answer: a reset, a wait and a malformed word change neither the configuration nor
the events, and a command's step is `exec`'s. -/
theorem configurationIsFixedAndEventsOnlyGrow : Obligations.ConfigurationIsFixedAndEventsOnlyGrow := by
  intro s t h
  obtain ⟨-, ⟨-, rfl⟩ | ⟨-, -, rfl⟩ | ⟨w, -, -, rfl⟩ | ⟨i, -, -, hi⟩⟩ := step_cases h
  · exact ⟨State.blockReset_cfg s, .inl (State.blockReset_events s)⟩
  · exact ⟨rfl, .inl rfl⟩
  · exact ⟨State.acceptMalformed_cfg s w, .inl (State.acceptMalformed_events s w)⟩
  · exact ⟨exec_keeps_cfg hi, exec_appends_at_most_one_event hi⟩

/-! ## Which configurations are refused -/

/-- Every step of a command has a next state: no command is refused and none faults (R150). -/
theorem exec_answers_next (i : Instr) (s : State) : ∃ t, exec i s = .next t := by
  rw [exec_eq_runCommand]
  cases hp : s.phase with
  | idle =>
    by_cases ht : s.traceOf i = []
    · exact ⟨_, runCommand_idle_empty hp ht⟩
    · exact ⟨_, runCommand_idle hp ht⟩
  | busy =>
    cases he : (s.traceOf i)[s.seq]? with
    | none => exact ⟨_, runCommand_complete hp (List.getElem?_eq_none_iff.mp he)⟩
    | some e =>
      by_cases hr : s.env.returns = some 0
      · exact ⟨_, runCommand_hang hp he hr⟩
      · exact ⟨_, runCommand_event hp he hr⟩

/-- In a well-formed configuration every step has a next state. -/
theorem step_answers_next {s : State} (hw : s.cfg.wf = true) : ∃ t, step s = .next t := by
  cases hr : s.resetIn with
  | true => exact ⟨s.blockReset, by simp [step, hw, hr]⟩
  | false =>
    cases hf : s.fetch with
    | wait => exact ⟨s, by simp [step, hw, hr, hf]⟩
    | malformed w => exact ⟨s.acceptMalformed w, by simp [step, hw, hr, hf]⟩
    | run i =>
      obtain ⟨t, ht⟩ := exec_answers_next i s
      exact ⟨t, by simp [step, hw, hr, hf, ht]⟩

/-- R6: `step` refuses the configurations that are not well-formed, and no others. -/
theorem step_refuses_config_iff (s : State) : step s = .refused .illFormedConfig ↔ ¬ s.cfg.wf = true := by
  constructor
  · intro h hw
    obtain ⟨t, ht⟩ := step_answers_next hw
    rw [ht] at h
    cases h
  · intro hw
    simp [step, hw]

end Sys2Proof.Machine

namespace Sys2Proof

/-- `Config.taken` in numbers: `UNLOCK_REG` is `0x09`, the SRAM window `0x20` to `0x5F` (spec 00_scope.md). -/
theorem Config.taken_eq_false_iff (a : Nat) :
    Config.taken a = false ↔ a ≠ 0x09 ∧ ¬(0x20 ≤ a ∧ a ≤ 0x5F) := by
  simp [Config.taken, Const.unlockReg, Const.sramLo, Const.sramHi]

/-- The three conditions of R6, written out. -/
theorem Config.wf_iff (c : Config) :
    c.wf = true ↔ c.rtcDevAddr ≠ c.eepromDevAddr ∧ c.rtcTimeBase.toNat ≤ 0xF9 ∧
      ∀ i, i < 7 → c.rtcTimeBase.toNat + i ≠ 0x09 ∧
        ¬(0x20 ≤ c.rtcTimeBase.toNat + i ∧ c.rtcTimeBase.toNat + i ≤ 0x5F) := by
  simp only [Config.wf, Config.devicesDiffer, Config.baseFits, Config.timeApart, Const.dtLen, Bool.and_eq_true,
    bne_iff_ne, decide_eq_true_eq, List.all_eq_true, List.mem_range, Bool.not_eq_true', Config.taken_eq_false_iff,
    and_assoc]

/-- Settles O51: the step refuses exactly what is not well-formed, and `wf` is the three conditions of R6. -/
theorem illFormedConfigurationsAreRefused : Obligations.IllFormedConfigurationsAreRefused :=
  ⟨fun s => (Machine.step_refuses_config_iff s).trans (not_congr s.cfg.wf_iff), by decide⟩

end Sys2Proof
end

section
/-! The state statements (spec 10_state.md): the word of a command decodes to it, the sequencer stays part-way through the
trace of the command it holds, what each step leaves in the flags, what one step of a command may change, and the host's
reads and the state after reset. -/

namespace Sys2Proof

/-! ## The word of a command -/

/-- R60 to R63: the word of a command decodes to the command. -/
theorem decode_encode (i : Instr) : decode (encode i) = .ok i := by
  cases i
  all_goals
    simp [decode, encode, decodeOpcode, checkUnused, unusedZero, List.range, List.range.loop, fields_layout]

namespace Machine

/-! ## Which command a step runs -/

theorem fetchWord_eq_run_iff {w : CmdWord} {i : Instr} : fetchWord w = .run i ↔ decode w = .ok i := by
  unfold fetchWord
  cases h : decode w <;> simp

theorem State.fetch_of_busy {s : State} (hp : s.phase = .busy) : s.fetch = fetchWord s.cmd := by
  simp [State.fetch, hp]

theorem decode_cmd_of_fetch_run {s : State} {i : Instr} (hp : s.phase = .busy) (hf : s.fetch = .run i) :
    decode s.cmd = .ok i :=
  fetchWord_eq_run_iff.mp (State.fetch_of_busy hp ▸ hf)

/-! ## The sequencer -/

theorem sequenced_iff_of_idle {s : State} (hp : s.phase = .idle) : Sequenced s ↔ s.bus = ⟨none, none⟩ := by
  simp [Sequenced, hp]

theorem sequenced_iff_of_busy {s : State} (hp : s.phase = .busy) :
    Sequenced s ↔ ∃ i, decode s.cmd = .ok i ∧ s.traceOf i ≠ [] ∧ s.seq ≤ (s.traceOf i).length ∧
      s.bus = busAfter ((s.traceOf i).take s.seq) := by
  simp [Sequenced, hp]

/-- The command a sequenced busy block holds is the one the next step runs. -/
theorem Sequenced.of_fetch_run {s : State} {i : Instr} (hs : Sequenced s) (hp : s.phase = .busy)
    (hf : s.fetch = .run i) :
    s.traceOf i ≠ [] ∧ s.seq ≤ (s.traceOf i).length ∧ s.bus = busAfter ((s.traceOf i).take s.seq) := by
  obtain ⟨j, hj, h⟩ := (sequenced_iff_of_busy hp).mp hs
  have hij : j = i := by simpa [hj] using decode_cmd_of_fetch_run hp hf
  exact hij ▸ h

/-- A sequenced busy block holds no malformed word. -/
theorem Sequenced.idle_of_fetch_malformed {s : State} {w : CmdWord} (hs : Sequenced s) (hf : s.fetch = .malformed w) :
    s.phase = .idle := by
  cases hp : s.phase with
  | idle => rfl
  | busy =>
    obtain ⟨i, hi, -⟩ := (sequenced_iff_of_busy hp).mp hs
    rw [State.fetch_of_busy hp, fetchWord_eq_run_iff.mpr hi] at hf
    cases hf

/-- R34: one more event of a trace. -/
theorem busAfter_take_succ {tr : List Event} {k : Nat} {e : Event} (he : tr[k]? = some e) :
    busAfter (tr.take (k + 1)) = (busAfter (tr.take k)).after e := by
  simp [busAfter, List.take_add_one, he]

/-- R104: emitting an event leaves the trace up to and including that event as it was. -/
theorem traceOf_emit_take {s : State} {i : Instr} {e : Event} (tr : List Event) (he : (s.traceOf i)[s.seq]? = some e) :
    ((s.emit tr e).traceOf i).take (s.seq + 1) = (s.traceOf i).take (s.seq + 1) := by
  by_cases hr : e = .recv
  · subst hr
    exact traceOf_take_recv _ he
  · simp only [State.traceOf, State.emit_cfg, s.rxbuf_emit_of_ne_recv tr hr]

/-- R104: an event of the trace moves the sequencer on by one. -/
theorem emit_keeps_sequenced {s : State} {i : Instr} {e : Event} (hs : Sequenced s) (hp : s.phase = .busy)
    (hf : s.fetch = .run i) (he : (s.traceOf i)[s.seq]? = some e) : Sequenced (s.emit (s.traceOf i) e) := by
  obtain ⟨-, -, hbus⟩ := hs.of_fetch_run hp hf
  have htake := traceOf_emit_take (s.traceOf i) he
  have hlt : s.seq < (s.traceOf i).length := (List.getElem?_eq_some_iff.mp he).1
  have hlen : s.seq + 1 ≤ ((s.emit (s.traceOf i) e).traceOf i).length := by
    have := congrArg List.length htake
    simp only [List.length_take] at this
    omega
  refine (sequenced_iff_of_busy (s := s.emit (s.traceOf i) e) hp).mpr
    ⟨i, decode_cmd_of_fetch_run hp hf, List.ne_nil_of_length_pos (by omega), hlen, ?_⟩
  rw [State.emit_bus, State.emit_seq, htake, busAfter_take_succ he, hbus]

/-- R10 to R12: a step of the command a sequenced block runs keeps it sequenced. -/
theorem exec_keeps_sequenced {s t : State} {i : Instr} (hs : Sequenced s) (hf : s.fetch = .run i)
    (h : exec i s = .next t) : Sequenced t := by
  obtain ⟨hp, -, rfl⟩ | ⟨hp, hne, rfl⟩ | ⟨e, -, -, -, rfl⟩ | ⟨e, hp, he, -, rfl⟩ | ⟨hp, hlen, rfl⟩ := exec_cases h
  · have hbus := (sequenced_iff_of_idle hp).mp hs
    exact (sequenced_iff_of_idle rfl).mpr (by simp [finishOf_frame, hbus])
  · have hbus := (sequenced_iff_of_idle hp).mp hs
    exact (sequenced_iff_of_busy rfl).mpr ⟨i, decode_encode i, hne, Nat.zero_le _, hbus⟩
  · exact hs
  · exact emit_keeps_sequenced hs hp hf he
  · obtain ⟨-, -, hbus⟩ := hs.of_fetch_run hp hf
    have hidle : s.bus = ⟨none, none⟩ := by
      rw [hbus, List.take_of_length_le hlen]
      exact busAfter_traceOf s.cfg s.rxbuf i
    exact (sequenced_iff_of_idle rfl).mpr (by simp [finishOf_frame, hidle])

/-- Settles O44, by the ways a step can answer: a reset leaves no transaction pending, a sequenced block meets a malformed
word in `IDLE` only, and the command's own step is `exec_keeps_sequenced`. -/
theorem stepKeepsTheSequencer : Obligations.StepKeepsTheSequencer := by
  intro s t hs h
  obtain ⟨-, ⟨-, rfl⟩ | ⟨-, -, rfl⟩ | ⟨w, -, hf, rfl⟩ | ⟨i, -, hf, hi⟩⟩ := step_cases h
  · exact (sequenced_iff_of_idle (State.blockReset_phase s)).mpr (State.blockReset_bus s)
  · exact hs
  · exact (sequenced_iff_of_idle rfl).mpr ((sequenced_iff_of_idle (hs.idle_of_fetch_malformed hf)).mp hs)
  · exact exec_keeps_sequenced hs hf hi

/-! ## The burst buffer -/

/-- R13: byte `k` of the loaded buffer. -/
theorem Buf.get_load (b : Buf) (ds : List Byte) (k : Fin 7) : (b.load ds).get k = ds.getD k (b.get k) := by
  fin_cases k <;> rfl

/-- The leading `QUEUE` bytes are the bytes of the events at their places. -/
theorem getElem?_of_queuedBytes {es : List Event} {k : Nat} {b : Byte} (h : (queuedBytes es)[k]? = some b) :
    es[k]? = some (.queue b) := by
  induction es generalizing k with
  | nil => simp [queuedBytes] at h
  | cons e es ih =>
    cases e with
    | queue v =>
      cases k with
      | zero => simpa [queuedBytes] using h
      | succ k => exact ih (by simpa [queuedBytes] using h)
    | _ => simp [queuedBytes] at h

/-- Byte `k` is among the leading `QUEUE` bytes when every event up to number `k` is a `QUEUE`. -/
theorem lt_length_queuedBytes_iff {es : List Event} {k : Nat} :
    k < (queuedBytes es).length ↔ ∀ j, j ≤ k → ∃ b, es[j]? = some (.queue b) := by
  induction es generalizing k with
  | nil => simpa [queuedBytes] using ⟨0, Nat.zero_le k⟩
  | cons e es ih =>
    cases e with
    | queue v =>
      cases k with
      | zero => simp [queuedBytes]
      | succ k =>
        simp only [queuedBytes, List.length_cons, Nat.add_lt_add_iff_right, ih]
        constructor
        · intro h j hj
          cases j with
          | zero => exact ⟨v, rfl⟩
          | succ j => exact h j (by omega)
        · intro h j hj
          exact h (j + 1) (by omega)
    | _ =>
      simp only [queuedBytes, List.length_nil, Nat.not_lt_zero, false_iff]
      intro h
      simpa using h 0 (Nat.zero_le k)

/-- Settles O35, by the bytes `queuedBytes` takes from the trace after the pointer's `QUEUE`. -/
theorem beginLoadsTheBurstIntoTxbuf : Obligations.BeginLoadsTheBurstIntoTxbuf := by
  intro i s a hp hr he
  refine ⟨s.emit (s.traceOf i) (.beginT a), ?_, fun k => ?_⟩
  · rw [exec_eq_runCommand, runCommand_event hp he hr]
  have htx : (s.emit (s.traceOf i) (.beginT a)).txbuf.get k =
      (queuedBytes ((s.traceOf i).drop (s.seq + 2))).getD k (s.txbuf.get k) := Buf.get_load _ _ k
  simp only [htx, ← List.getElem?_drop]
  constructor
  · intro h
    have hk := lt_length_queuedBytes_iff.mpr h
    exact getElem?_of_queuedBytes (by simp [hk])
  · rintro ⟨j, hj, hne⟩
    have hk : ¬ k.val < (queuedBytes ((s.traceOf i).drop (s.seq + 2))).length := fun hk =>
      have ⟨b, hb⟩ := lt_length_queuedBytes_iff.mp hk j hj
      hne b hb
    exact List.getD_eq_default _ _ (Nat.le_of_not_lt hk)

/-! ## The flags -/

/-- R15, R103, R104: the flags tell of a completed command whether it was out of range, and are clear from acceptance on
until then. -/
theorem exec_status {i : Instr} {s t : State} (h : exec i s = .next t) :
    (s.phase = .idle → t.status = ⟨outOfRange i, false⟩) ∧
    (s.phase = .busy → t.phase = .idle → t.status = ⟨outOfRange i, false⟩) ∧
    (s.phase = .busy → t.phase = .busy → t.status = s.status) := by
  obtain ⟨hp, -, rfl⟩ | ⟨hp, hne, rfl⟩ | ⟨e, hp, -, -, rfl⟩ | ⟨e, hp, -, -, rfl⟩ | ⟨hp, -, rfl⟩ := exec_cases h
  · simp [hp, finishOf_frame]
  · simp [hp, outOfRange_of_traceOf_ne_nil hne]
  · simp [hp]
  · simp [hp]
  · simp [hp, finishOf_frame]

/-- R156: a step of a command keeps the flags' discipline: completion sets no `ILL`, and acceptance clears both flags. -/
theorem exec_keeps_flagDiscipline {s t : State} {i : Instr} (hs : FlagDiscipline s) (h : exec i s = .next t) :
    FlagDiscipline t := by
  obtain ⟨-, -, rfl⟩ | ⟨-, -, rfl⟩ | ⟨e, -, -, -, rfl⟩ | ⟨e, -, -, -, rfl⟩ | ⟨-, -, rfl⟩ := exec_cases h
  · simp [FlagDiscipline, finishOf_frame]
  · simp [FlagDiscipline]
  · exact hs
  · exact hs
  · simp [FlagDiscipline, finishOf_frame]

/-- Settles O45, by the ways a step can answer: a reset clears both flags, a malformed word sets `ILL` alone and leaves the
block in `IDLE`, and the command's own step is `exec_keeps_flagDiscipline`. -/
theorem stepKeepsFlagDiscipline : Obligations.StepKeepsFlagDiscipline := by
  intro s t _ hd h
  obtain ⟨-, ⟨-, rfl⟩ | ⟨-, -, rfl⟩ | ⟨w, -, -, rfl⟩ | ⟨i, -, -, hi⟩⟩ := step_cases h
  · simp [FlagDiscipline]
  · exact hd
  · simp [FlagDiscipline]
  · exact exec_keeps_flagDiscipline hd hi

/-- Settles O49, by the ways a step can answer: a wait keeps the flags, a malformed word is met in `IDLE` only, and for a
command's step it is `exec_status`, a busy block's command having events and so being in range. -/
theorem statusTellsTheLastCommand : Obligations.StatusTellsTheLastCommand := by
  intro s t hs hr h
  obtain ⟨-, ⟨hr', -⟩ | ⟨-, hf, rfl⟩ | ⟨w, -, hf, rfl⟩ | ⟨i, -, hf, hi⟩⟩ := step_cases h
  · simp [hr] at hr'
  · exact ⟨by simp [hf], by simp [hf], fun _ => rfl, fun hb hi => by simp [hb] at hi, fun _ _ => rfl⟩
  · simp [hf, hs.idle_of_fetch_malformed hf]
  · obtain ⟨hidle, hdone, hbusy⟩ := exec_status hi
    refine ⟨fun j hp hj => ?_, by simp [hf], by simp [hf], fun hp ht => ?_, hbusy⟩
    · cases hf.symm.trans hj
      exact hidle hp
    · obtain ⟨hne, -, -⟩ := hs.of_fetch_run hp hf
      rw [hdone hp ht, outOfRange_of_traceOf_ne_nil hne]

/-! ## What one step of a command may change -/

/-- A completion draws a free value only for SRAMRD out of range (R132). -/
theorem finishOf_draws (rx : Buf) (i : Instr) (s : State) :
    (finishOf rx i s).draws = s.draws ∨
      (finishOf rx i s).draws = s.draws + 1 ∧ ∃ loc, i = .sramrd loc ∧ inSramWindow loc = false := by
  cases i
  case sramrd loc => cases h : inSramWindow loc <;> simp [finishOf, sramrdFinish, h]
  case sramwr loc d => cases h : inSramWindow loc <;> simp [finishOf, sramwrFinish, h]
  all_goals exact .inl rfl

/-- R40, R49: only an `END` and a `RECV` reach the target. -/
theorem State.targetAfter_ne {s : State} {e : Event} (h : s.targetAfter e ≠ s.target) : e = .endT ∨ e = .recv := by
  cases e
  case endT => exact .inl rfl
  case recv => exact .inr rfl
  all_goals exact absurd rfl h

/-- No event changes whether the target is known (R172). -/
theorem State.known_targetAfter (s : State) (e : Event) : (s.targetAfter e).known = s.target.known := by
  cases e
  case endT =>
    obtain h | ⟨a, bytes, x, -, -, h⟩ := s.targetAfterEnd_cases
    all_goals simp [State.targetAfter, h]
  case recv =>
    obtain ⟨-, -, hknown⟩ := s.targetAfterRecv_frame
    exact hknown
  all_goals rfl

/-- R49, R53: a `RECV` moves no pointer but that of the device it reads, and that by one. -/
theorem State.ptr_targetAfterRecv {s : State} {x : Device} (h : s.targetAfterRecv.ptr x ≠ s.target.ptr x) :
    s.readDevice = some x ∧ s.targetAfterRecv.ptr x = s.target.ptr x + 1#8 := by
  have hcases : s.targetAfterRecv = s.target ∨
      ∃ y, s.readDevice = some y ∧ s.targetAfterRecv = s.target.advancePtr y := by
    unfold State.targetAfterRecv
    split
    · exact .inl rfl
    · next y hy => split <;> simp [hy]
  obtain heq | ⟨y, hy, heq⟩ := hcases
  · exact absurd (by rw [heq]) h
  · rw [heq] at h ⊢
    have hxy : x = y := by
      by_contra hne
      exact h (Target.ptr_setPtr_other _ _ hne)
    subst hxy
    exact ⟨hy, Target.ptr_advancePtr_same _ _⟩

/-- A `RECV` draws a free value where no device answers; no other event draws one (R44, R53). -/
theorem State.drawsAfter_ne {s : State} {e : Event} (h : s.drawsAfter e ≠ s.draws) :
    e = .recv ∧ s.answering = none ∧ s.drawsAfter e = s.draws + 1 := by
  cases e
  case recv =>
    by_cases ha : s.answering = none
    · simp [State.drawsAfter, ha]
    · simp [State.drawsAfter, ha] at h
  all_goals exact absurd rfl h

/-- R13, R40, R104: a step of a command emits its next event, or leaves the buffers, the target, the transport, the
environment's plan and the events alone. -/
theorem exec_emits_or_keeps {i : Instr} {s t : State} (h : exec i s = .next t) :
    (∃ e, s.phase = .busy ∧ (s.traceOf i)[s.seq]? = some e ∧ t = s.emit (s.traceOf i) e) ∨
    (t.txbuf = s.txbuf ∧ t.rxbuf = s.rxbuf ∧ t.target = s.target ∧ t.bus = s.bus ∧ t.env = s.env ∧
      t.events = s.events) := by
  obtain ⟨-, -, rfl⟩ | ⟨-, -, rfl⟩ | ⟨e, -, -, -, rfl⟩ | ⟨e, hp, he, -, rfl⟩ | ⟨-, -, rfl⟩ := exec_cases h
  · exact .inr (by simp [finishOf_frame])
  · exact .inr (by simp)
  · exact .inr (by simp)
  · exact .inl ⟨e, hp, he, rfl⟩
  · exact .inr (by simp [finishOf_frame])

section
variable {i : Instr} {s t : State}

/-- The reset input is the environment's (R170). -/
theorem exec_keeps_resetIn (h : exec i s = .next t) : t.resetIn = s.resetIn := by
  obtain ⟨-, -, rfl⟩ | ⟨-, -, rfl⟩ | ⟨e, -, -, -, rfl⟩ | ⟨e, -, -, -, rfl⟩ | ⟨-, -, rfl⟩ := exec_cases h
  all_goals simp [finishOf_frame]

/-- Only the reset input makes the target unknown (R172). -/
theorem exec_keeps_known (h : exec i s = .next t) : t.target.known = s.target.known := by
  obtain ⟨e, -, -, rfl⟩ | ⟨-, -, htarget, -⟩ := exec_emits_or_keeps h
  · exact s.known_targetAfter e
  · rw [htarget]

/-- R10, R103, R104: `PHASE` changes by accepting a command with events or by completing one. -/
theorem exec_phase_ne (h : exec i s = .next t) (hne : t.phase ≠ s.phase) :
    (s.phase = .idle ∧ s.traceOf i ≠ []) ∨ (s.phase = .busy ∧ (s.traceOf i).length ≤ s.seq) := by
  obtain ⟨hp, -, rfl⟩ | ⟨hp, ht, rfl⟩ | ⟨e, -, -, -, rfl⟩ | ⟨e, -, -, -, rfl⟩ | ⟨hp, hl, rfl⟩ := exec_cases h
  · exact absurd hp.symm hne
  · exact .inl ⟨hp, ht⟩
  · exact absurd rfl hne
  · exact absurd rfl hne
  · exact .inr ⟨hp, hl⟩

/-- R12: `SEQ` is cleared at acceptance and counts the events. -/
theorem exec_seq_ne (h : exec i s = .next t) (hne : t.seq ≠ s.seq) :
    (s.phase = .idle ∧ t.seq = 0) ∨ (s.phase = .busy ∧ s.seq < (s.traceOf i).length ∧ t.seq = s.seq + 1) := by
  obtain ⟨hp, -, rfl⟩ | ⟨hp, -, rfl⟩ | ⟨e, -, -, -, rfl⟩ | ⟨e, hp, he, -, rfl⟩ | ⟨hp, -, rfl⟩ := exec_cases h
  · exact .inl ⟨hp, by simp [finishOf_frame]⟩
  · exact .inl ⟨hp, rfl⟩
  · exact absurd rfl hne
  · exact .inr ⟨hp, (List.getElem?_eq_some_iff.mp he).1, rfl⟩
  · exact absurd (by simp [finishOf_frame]) hne

/-- R11, R103: a busy block neither latches a word nor takes one from the host. -/
theorem exec_keeps_cmd_host_of_busy (h : exec i s = .next t) (hp : s.phase = .busy) :
    t.cmd = s.cmd ∧ t.host = s.host := by
  obtain ⟨hi, -, -⟩ | ⟨hi, -, -⟩ | ⟨e, -, -, -, rfl⟩ | ⟨e, -, -, -, rfl⟩ | ⟨-, -, rfl⟩ := exec_cases h
  · simp [hp] at hi
  · simp [hp] at hi
  · exact ⟨rfl, rfl⟩
  · exact ⟨rfl, rfl⟩
  · simp [finishOf_frame]

/-- R14, R65: `RES` is written by the completion of a command with a result. -/
theorem exec_writes_res_or_keeps (h : exec i s = .next t) :
    (t.phase = .idle ∧ hasResult i = true) ∨ (t.res = s.res ∧ t.resWritten = s.resWritten) := by
  obtain ⟨-, -, rfl⟩ | ⟨-, -, rfl⟩ | ⟨e, -, -, -, rfl⟩ | ⟨e, -, -, -, rfl⟩ | ⟨-, -, rfl⟩ := exec_cases h
  · cases hr : hasResult i <;> simp [finishOf_frame, hr]
  · exact .inr ⟨rfl, rfl⟩
  · exact .inr ⟨rfl, rfl⟩
  · exact .inr ⟨rfl, rfl⟩
  · cases hr : hasResult i <;> simp [finishOf_frame, hr]

/-- R15: `STATUS` changes at acceptance or completion. -/
theorem exec_status_ne (h : exec i s = .next t) (hne : t.status ≠ s.status) : s.phase = .idle ∨ t.phase = .idle := by
  obtain ⟨-, -, hbusy⟩ := exec_status h
  cases hs : s.phase with
  | idle => exact .inl rfl
  | busy =>
    cases ht : t.phase with
    | idle => exact .inr rfl
    | busy => exact absurd (hbusy hs ht) hne

/-- R13: `TXBUF` is loaded at a `BEGIN` (log 14). -/
theorem exec_txbuf_ne (h : exec i s = .next t) (hne : t.txbuf ≠ s.txbuf) :
    s.phase = .busy ∧ ∃ a, (s.traceOf i)[s.seq]? = some (.beginT a) := by
  obtain ⟨e, hp, he, rfl⟩ | ⟨htx, -⟩ := exec_emits_or_keeps h
  · cases e
    case beginT a => exact ⟨hp, a, he⟩
    all_goals exact absurd rfl hne
  · exact absurd htx hne

/-- R13: `RXBUF` is written at a `RECV`. -/
theorem exec_rxbuf_ne (h : exec i s = .next t) (hne : t.rxbuf ≠ s.rxbuf) :
    s.phase = .busy ∧ (s.traceOf i)[s.seq]? = some .recv := by
  obtain ⟨e, hp, he, rfl⟩ | ⟨-, hrx, -⟩ := exec_emits_or_keeps h
  · by_cases hr : e = .recv
    · exact ⟨hp, hr ▸ he⟩
    · exact absurd (s.rxbuf_emit_of_ne_recv _ hr) hne
  · exact absurd hrx hne

/-- R40: the target changes at an `END` or a `RECV`. -/
theorem exec_target_ne (h : exec i s = .next t) (hne : t.target ≠ s.target) :
    s.phase = .busy ∧ ((s.traceOf i)[s.seq]? = some .endT ∨ (s.traceOf i)[s.seq]? = some .recv) := by
  obtain ⟨e, hp, he, rfl⟩ | ⟨-, -, htarget, -⟩ := exec_emits_or_keeps h
  · obtain rfl | rfl := State.targetAfter_ne hne
    · exact ⟨hp, .inl he⟩
    · exact ⟨hp, .inr he⟩
  · exact absurd htarget hne

/-- R49: at a `RECV` the target's bytes and lock stay, and no pointer moves but that of the device read, by one. -/
theorem exec_target_of_recv (h : exec i s = .next t) (hrecv : (s.traceOf i)[s.seq]? = some .recv) :
    (∀ x, t.target.mem x = s.target.mem x ∧
      (t.target.ptr x ≠ s.target.ptr x → s.readDevice = some x ∧ t.target.ptr x = s.target.ptr x + 1#8)) ∧
    t.target.lock = s.target.lock := by
  obtain ⟨e, -, he, rfl⟩ | ⟨-, -, htarget, -⟩ := exec_emits_or_keeps h
  · cases hrecv.symm.trans he
    obtain ⟨hmem, hlock, -⟩ := s.targetAfterRecv_frame
    exact ⟨fun x => ⟨hmem x, State.ptr_targetAfterRecv⟩, hlock⟩
  · simp [htarget]

/-- R8: a step draws at most one free value: at a `RECV` that no device answers, or for SRAMRD out of range (log 6). -/
theorem exec_draws_ne (h : exec i s = .next t) (hne : t.draws ≠ s.draws) :
    t.draws = s.draws + 1 ∧
      ((s.phase = .busy ∧ (s.traceOf i)[s.seq]? = some .recv ∧ s.answering = none) ∨
        (t.phase = .idle ∧ ∃ loc, i = .sramrd loc ∧ inSramWindow loc = false)) := by
  obtain ⟨-, -, rfl⟩ | ⟨-, -, rfl⟩ | ⟨e, -, -, -, rfl⟩ | ⟨e, hp, he, -, rfl⟩ | ⟨-, -, rfl⟩ := exec_cases h
  · obtain hkeep | ⟨hdraw, hloc⟩ := finishOf_draws s.rxbuf i (s.accept (encode i))
    · exact absurd hkeep hne
    · exact ⟨hdraw, .inr ⟨rfl, hloc⟩⟩
  · exact absurd rfl hne
  · exact absurd rfl hne
  · obtain ⟨rfl, hans, hdraw⟩ := State.drawsAfter_ne hne
    exact ⟨hdraw, .inl ⟨hp, he, hans⟩⟩
  · obtain hkeep | ⟨hdraw, hloc⟩ := finishOf_draws s.rxbuf i s
    · exact absurd hkeep hne
    · exact ⟨hdraw, .inr ⟨rfl, hloc⟩⟩

/-- R17, R104: the transport, the environment's plan and the events change only by an event of the trace. -/
theorem exec_transport_ne (h : exec i s = .next t) (hne : t.bus ≠ s.bus ∨ t.env ≠ s.env ∨ t.events ≠ s.events) :
    s.phase = .busy ∧ s.seq < (s.traceOf i).length := by
  obtain ⟨e, hp, he, -⟩ | ⟨-, -, -, hbus, henv, hevents⟩ := exec_emits_or_keeps h
  · exact ⟨hp, (List.getElem?_eq_some_iff.mp he).1⟩
  · simp [hbus, henv, hevents] at hne

end

/-- Settles O55: the frame of each piece of state, one lemma each, from the ways a step of a command can answer. -/
theorem execFrame : Obligations.ExecFrame := by
  intro i s t h
  have hcmd : t.cmd ≠ s.cmd ∨ t.host ≠ s.host → s.phase = .idle := fun hne => by
    cases hp : s.phase with
    | idle => rfl
    | busy => simp [exec_keeps_cmd_host_of_busy h hp] at hne
  have hres : t.res ≠ s.res ∨ t.resWritten ≠ s.resWritten → t.phase = .idle ∧ hasResult i = true := fun hne =>
    (exec_writes_res_or_keeps h).resolve_right fun ⟨hr, hw⟩ => hne.elim (absurd hr) (absurd hw)
  exact ⟨exec_keeps_cfg h, exec_keeps_resetIn h, exec_keeps_known h, exec_phase_ne h, exec_seq_ne h, hcmd, hres,
    exec_status_ne h, exec_txbuf_ne h, exec_rxbuf_ne h, exec_target_ne h, exec_target_of_recv h, exec_draws_ne h,
    exec_transport_ne h⟩

/-! ## After reset -/

/-- A state that steps to itself stays where it is. -/
theorem run_of_step_self {s : State} (h : step s = .next s) (n : Nat) : Host.Core.run core n s = .next s := by
  induction n with
  | zero => exact run_zero s
  | succ n ih => rw [run_succ h, ih]

/-- R10: an idle block with nothing presented waits. -/
theorem step_of_wait {s : State} (hw : s.cfg.wf = true) (hr : s.resetIn = false) (hp : s.phase = .idle)
    (hh : s.host = []) : step s = .next s := by
  simp [step, State.fetch, hw, hr, hp, hh]

/-- Settles O46: the reset values meet each invariant by their own definitions, and the reset state is one that waits. -/
theorem resetMeetsTheInvariants : Obligations.ResetMeetsTheInvariants := by
  have hwf : State.reset.cfg.wf = true := by decide
  exact ⟨⟨rfl, rfl⟩, (sequenced_iff_of_idle rfl).mpr rfl, by simp [FlagDiscipline, State.reset], hwf,
    run_of_step_self (step_of_wait hwf rfl rfl rfl)⟩

/-! ## What the host reads -/

theorem State.readRes_of_busy {s : State} (hp : s.phase = .busy) (i : Fin 7) :
    s.readRes i = .error .hostReadWhileBusy := by
  simp [State.readRes, hp]

theorem State.readRes_of_idle {s : State} (hp : s.phase = .idle) (i : Fin 7) :
    s.readRes i = if s.resWritten then .ok (s.res.get i) else .error .resNeverWritten := by
  simp [State.readRes, hp]

/-- Settles O47: the values of R22's table are the fields of `State.reset`, and no result has been written there. -/
theorem stateAfterReset : Obligations.StateAfterReset :=
  ⟨rfl, rfl, rfl, rfl, rfl, State.readRes_of_idle rfl⟩

/-- R15: `RANGE` in bit 0, `ILL` in bit 1, zeros above. -/
theorem Status.getLsbD_toByte (st : Status) :
    st.toByte.getLsbD 0 = st.range ∧ st.toByte.getLsbD 1 = st.ill ∧ ∀ k, 2 ≤ k → st.toByte.getLsbD k = false := by
  obtain ⟨range, ill⟩ := st
  have hlt : (Status.mk range ill).toByte.toNat < 2 ^ 2 := by decide +revert
  refine ⟨by decide +revert, by decide +revert, fun k hk => ?_⟩
  exact Nat.testBit_lt_two_pow (hlt.trans_le (Nat.pow_le_pow_right (by decide) hk))

/-- Settles O54, by the two phases of each read. -/
theorem hostReadsOnlyInIdle : Obligations.HostReadsOnlyInIdle := by
  refine ⟨fun s i hp => ⟨State.readRes_of_busy hp i, ?_⟩, fun s i hp hw => ?_, fun s i hp hw => ?_, fun s hp => ?_⟩
  · simp [State.readStatus, hp]
  · simp [State.readRes_of_idle hp, hw]
  · simp [State.readRes_of_idle hp, hw]
  · exact ⟨s.status.toByte, by simp [State.readStatus, hp], s.status.getLsbD_toByte⟩

end Machine

end Sys2Proof
end

section
/-! The memory statements (spec 20_memory.md), the target: what a whole write transaction does to the pointers, the bytes
and the lock of each device, and that every step keeps both byte stores canonical. -/

namespace Sys2Proof.Machine

/-! ## Canonical memory -/

/-- Both stores at once, by device. -/
theorem memoryCanonical_iff (s : State) : MemoryCanonical s ↔ ∀ x, Memory.wf (s.target.mem x) = true := by
  constructor
  · rintro ⟨hrtc, heeprom⟩ x
    cases x
    · exact hrtc
    · exact heeprom
  · exact fun h => ⟨h .rtc, h .eeprom⟩

/-- No event takes a store out of canonical form. -/
theorem State.targetAfter_wf {s : State} (e : Event) (h : ∀ x, Memory.wf (s.target.mem x) = true) (x : Device) :
    Memory.wf ((s.targetAfter e).mem x) = true := by
  cases e
  case endT =>
    obtain heq | ⟨a, bytes, y, -, -, heq⟩ := s.targetAfterEnd_cases
    · simpa [State.targetAfter, heq] using h x
    · simpa [State.targetAfter, heq] using s.target.deliver_wf y x _ h
  case recv =>
    obtain ⟨hmem, -⟩ := s.targetAfterRecv_frame
    simpa [State.targetAfter, hmem] using h x
  all_goals exact h x

theorem emit_keeps_memoryCanonical {s : State} (tr : List Event) (e : Event) (hs : MemoryCanonical s) :
    MemoryCanonical (s.emit tr e) :=
  (memoryCanonical_iff _).mpr (State.targetAfter_wf e ((memoryCanonical_iff s).mp hs))

theorem exec_keeps_memoryCanonical {i : Instr} {s t : State} (hs : MemoryCanonical s) (h : exec i s = .next t) :
    MemoryCanonical t := by
  obtain ⟨e, -, -, rfl⟩ | ⟨-, -, htarget, -⟩ := exec_emits_or_keeps h
  · exact emit_keeps_memoryCanonical _ e hs
  · simpa only [MemoryCanonical, htarget] using hs

/-- Settles O43, by the ways a step can answer: a reset, a wait and a malformed word touch no byte of the target, and a
command's step stores at most what an `END` delivers, each byte by a write that keeps the canonical form. -/
theorem stepKeepsMemoryCanonical : Obligations.StepKeepsMemoryCanonical := by
  intro s t hs h
  obtain ⟨-, ⟨-, rfl⟩ | ⟨-, -, rfl⟩ | ⟨w, -, -, rfl⟩ | ⟨i, -, -, hi⟩⟩ := step_cases h
  · simpa [MemoryCanonical] using hs
  · exact hs
  · simpa [MemoryCanonical] using hs
  · exact exec_keeps_memoryCanonical hs hi

/-! ## The lock -/

theorem Target.lock_store_rtc (t : Target) (a v : Byte) : (t.store .rtc a v).lock = lockAfterRtcStore t.lock a v := rfl

/-- A store to the EEPROM does not move the lock (R48). -/
theorem Target.lock_store_eeprom (t : Target) (a v : Byte) : (t.store .eeprom a v).lock = t.lock := by
  simp only [Target.store]
  split <;> rfl

theorem lockAfterRtcStore_unlockReg (l : Lock) (v : Byte) : lockAfterRtcStore l 0x09#8 v = lockStep l v := by
  simp [lockAfterRtcStore, Const.unlockReg]

theorem lockAfterRtcStore_other (l : Lock) {a : Byte} (v : Byte) (h : a ≠ 0x09#8) :
    lockAfterRtcStore l a v = if l = .half then .locked else l := by
  simp [lockAfterRtcStore, Const.unlockReg, h]

/-- An EEPROM transaction with a data byte takes `UNLOCKED` to `LOCKED` (R47, R50; log 20). -/
theorem Target.lock_relock_eeprom (t : Target) (ds : List Byte) :
    (t.relock .eeprom ds).lock = if ds ≠ [] ∧ t.lock = .unlocked then .locked else t.lock := by
  by_cases h : ds ≠ [] ∧ t.lock = .unlocked
  · simp [Target.relock, h]
  · rw [if_neg h, Target.relock, if_neg fun ⟨_, h'⟩ => h h']

@[simp] theorem Target.relock_rtc (t : Target) (ds : List Byte) : t.relock .rtc ds = t := by
  simp [Target.relock]

@[simp] theorem Target.relock_nil (t : Target) (x : Device) : t.relock x [] = t := by
  simp [Target.relock]

/-! ## The data bytes of a transaction, one after the other -/

@[simp] theorem Target.ptr_storeNext_same (t : Target) (x : Device) (v : Byte) :
    (Target.storeNext x t v).ptr x = t.ptr x + 1#8 := by
  simp [Target.storeNext]

theorem Target.ptr_storeNext_other (t : Target) {x y : Device} (v : Byte) (h : y ≠ x) :
    (Target.storeNext x t v).ptr y = t.ptr y := by
  simp [Target.storeNext, Target.advancePtr, Target.ptr_setPtr_other _ _ h]

theorem Target.mem_storeNext (t : Target) (x y : Device) (v : Byte) :
    (Target.storeNext x t v).mem y = (t.store x (t.ptr x) v).mem y := by
  simp [Target.storeNext]

theorem Target.lock_storeNext (t : Target) (x : Device) (v : Byte) :
    (Target.storeNext x t v).lock = (t.store x (t.ptr x) v).lock := by
  simp [Target.storeNext]

/-- The pointer advances once a data byte, modulo 256 (R47). -/
theorem Target.ptr_foldl_storeNext (ds : List Byte) (t : Target) (x : Device) :
    (ds.foldl (Target.storeNext x) t).ptr x = t.ptr x + BitVec.ofNat 8 ds.length := by
  induction ds generalizing t with
  | nil => simp
  | cons d ds ih =>
    rw [List.foldl_cons, ih, Target.ptr_storeNext_same, List.length_cons, BitVec.add_assoc, Nat.add_comm ds.length 1,
      BitVec.ofNat_add]

/-- The other device is left alone (R46). -/
theorem Target.foldl_storeNext_other (ds : List Byte) (t : Target) {x y : Device} (h : y ≠ x) :
    (ds.foldl (Target.storeNext x) t).ptr y = t.ptr y ∧ (ds.foldl (Target.storeNext x) t).mem y = t.mem y := by
  induction ds generalizing t with
  | nil => exact ⟨rfl, rfl⟩
  | cons d ds ih =>
    obtain ⟨hptr, hmem⟩ := ih (Target.storeNext x t d)
    rw [Target.ptr_storeNext_other t d h] at hptr
    rw [Target.mem_storeNext, t.mem_store_other _ d h] at hmem
    exact ⟨hptr, hmem⟩

theorem Target.lock_foldl_storeNext_eeprom (ds : List Byte) (t : Target) :
    (ds.foldl (Target.storeNext .eeprom) t).lock = t.lock := by
  induction ds generalizing t with
  | nil => rfl
  | cons d ds ih => rw [List.foldl_cons, ih, Target.lock_storeNext, Target.lock_store_eeprom]

theorem Target.lock_foldl_storeNext_rtc (ds : List Byte) (t : Target) :
    (ds.foldl (Target.storeNext .rtc) t).lock = lockAlong t.lock (t.ptr .rtc) ds := by
  induction ds generalizing t with
  | nil => rfl
  | cons d ds ih =>
    rw [List.foldl_cons, ih, Target.lock_storeNext, Target.ptr_storeNext_same, Target.lock_store_rtc, lockAlong]

/-- How far `b` lies from the next pointer, where it is not the byte at the pointer itself. -/
theorem toNat_sub_eq_succ {b p : Byte} (h : b ≠ p) : (b - p).toNat = (b - (p + 1#8)).toNat + 1 := by
  bv_omega

/-- The byte at the pointer is the last one a rising pointer comes back to. -/
theorem toNat_sub_succ_self (p : Byte) : (p - (p + 1#8)).toNat = 255 := by
  bv_omega

/-- Addresses the data bytes do not reach keep their byte, whatever the memory holds (R47). -/
theorem Target.read_foldl_storeNext_outside (ds : List Byte) (t : Target) (x y : Device) (b : Byte)
    (h : y ≠ x ∨ ds.length ≤ (b - t.ptr x).toNat) :
    Memory.read ((ds.foldl (Target.storeNext x) t).mem y) b = Memory.read (t.mem y) b := by
  induction ds generalizing t with
  | nil => rfl
  | cons d ds ih =>
    have hne : y ≠ x ∨ b ≠ t.ptr x := h.imp_right fun hlen heq => by simp [heq] at hlen
    have htail : y ≠ x ∨ ds.length ≤ (b - (Target.storeNext x t d).ptr x).toNat := by
      refine hne.elim .inl fun hb => h.imp_right fun hlen => ?_
      rw [toNat_sub_eq_succ hb, List.length_cons] at hlen
      rw [Target.ptr_storeNext_same]
      omega
    rw [List.foldl_cons, ih _ htail, Target.mem_storeNext, t.read_store_other x y d hne]

/-! ## Which addresses take a byte -/

/-- Address `b` of device `x` takes a byte stored to it: all but the UniqueIdBlock of an EEPROM not unlocked (R48). -/
def Target.takes (t : Target) (x : Device) (b : Byte) : Bool :=
  decide (x = .rtc) || decide (t.lock = .unlocked) || !inUniqueIdBlock b

theorem Target.takes_iff (t : Target) (x : Device) (b : Byte) :
    t.takes x b = true ↔ x = .rtc ∨ t.lock = .unlocked ∨ ¬(0xF2 ≤ b.toNat ∧ b.toNat ≤ 0xF7) := by
  simp [Target.takes, inUniqueIdBlock, imp_iff_not_or, or_assoc]

@[simp] theorem Target.takes_setPtr (t : Target) (x y : Device) (p b : Byte) :
    (t.setPtr y p).takes x b = t.takes x b := by
  simp [Target.takes]

/-- A data byte stored to a device leaves which of its addresses take one: an EEPROM store does not move the lock. -/
@[simp] theorem Target.takes_storeNext (t : Target) (x : Device) (v b : Byte) :
    (Target.storeNext x t v).takes x b = t.takes x b := by
  cases x
  · rfl
  · simp [Target.takes, Target.lock_storeNext, Target.lock_store_eeprom]

/-- A store writes its byte where the address takes one (R48). -/
theorem Target.mem_store_same (t : Target) (x : Device) (a v : Byte) :
    (t.store x a v).mem x = if t.takes x a then Memory.write (t.mem x) a v else t.mem x := by
  cases x
  · rfl
  · by_cases hlock : t.lock = .unlocked
    · simp [Target.store, Target.takes, hlock, Target.mem]
    · cases hblock : inUniqueIdBlock a <;> simp [Target.store, Target.takes, hblock, hlock, Target.mem]

/-- A read after a store to the same address (R48, R51). -/
theorem Target.read_store_same (t : Target) (x : Device) (a v : Byte) (h : Memory.wf (t.mem x) = true) :
    Memory.read ((t.store x a v).mem x) a = if t.takes x a then v else Memory.read (t.mem x) a := by
  rw [t.mem_store_same]
  split
  · exact Memory.read_write_same a v h
  · rfl

/-- The byte at each address after the data bytes of a transaction: data byte number `b - p` where there is one and the
address takes it, else the byte of before. With more than 256 data bytes the pointer would come round to `p` again. -/
theorem Target.read_foldl_storeNext (ds : List Byte) (t : Target) (x : Device) (b : Byte)
    (hwf : ∀ z, Memory.wf (t.mem z) = true) (hlen : ds.length ≤ 256) :
    Memory.read ((ds.foldl (Target.storeNext x) t).mem x) b =
      if t.takes x b then ds.getD (b - t.ptr x).toNat (Memory.read (t.mem x) b) else Memory.read (t.mem x) b := by
  induction ds generalizing t with
  | nil => simp
  | cons d ds ih =>
    rw [List.length_cons] at hlen
    by_cases hb : b = t.ptr x
    · have hround : ds.length ≤ (b - (Target.storeNext x t d).ptr x).toNat := by
        rw [Target.ptr_storeNext_same, hb, toNat_sub_succ_self]
        omega
      rw [List.foldl_cons, Target.read_foldl_storeNext_outside _ _ _ _ _ (.inr hround), Target.mem_storeNext, hb,
        t.read_store_same _ _ _ (hwf x)]
      simp
    · rw [List.foldl_cons, ih _ (fun z => t.storeNext_wf x z d hwf) (by omega), Target.takes_storeNext,
        Target.mem_storeNext, t.read_store_other x x d (.inr hb), Target.ptr_storeNext_same, toNat_sub_eq_succ hb,
        List.getD_cons_succ]

/-! ## A whole write transaction -/

/-- Where the pointer of the device ends: past the last data byte, modulo 256 (R47). -/
theorem Target.ptr_deliver (t : Target) (x : Device) (p : Byte) (ds : List Byte) :
    (t.deliver x (p :: ds)).ptr x = p + BitVec.ofNat 8 ds.length := by
  simp [Target.deliver, Target.ptr_foldl_storeNext]

theorem Target.deliver_other (t : Target) {x y : Device} (bytes : List Byte) (h : y ≠ x) :
    (t.deliver x bytes).ptr y = t.ptr y ∧ (t.deliver x bytes).mem y = t.mem y := by
  cases bytes with
  | nil => exact ⟨rfl, rfl⟩
  | cons p ds =>
    obtain ⟨hptr, hmem⟩ := Target.foldl_storeNext_other ds (t.setPtr x p) h
    exact ⟨by simp [Target.deliver, hptr, Target.ptr_setPtr_other _ _ h], by simp [Target.deliver, hmem]⟩

theorem Target.read_deliver_outside (t : Target) (x y : Device) (p b : Byte) (ds : List Byte)
    (h : y ≠ x ∨ ds.length ≤ (b - p).toNat) :
    Memory.read ((t.deliver x (p :: ds)).mem y) b = Memory.read (t.mem y) b := by
  simp [Target.deliver, Target.read_foldl_storeNext_outside ds (t.setPtr x p) x y b (by simpa using h)]

theorem Target.read_deliver (t : Target) (x : Device) (p b : Byte) (ds : List Byte)
    (hwf : ∀ z, Memory.wf (t.mem z) = true) (hlen : ds.length ≤ 256) :
    Memory.read ((t.deliver x (p :: ds)).mem x) b =
      if t.takes x b then ds.getD (b - p).toNat (Memory.read (t.mem x) b) else Memory.read (t.mem x) b := by
  simpa [Target.deliver] using Target.read_foldl_storeNext ds (t.setPtr x p) x b (by simpa using hwf) hlen

theorem Target.lock_deliver_eeprom (t : Target) (p : Byte) (ds : List Byte) :
    (t.deliver .eeprom (p :: ds)).lock = if ds ≠ [] ∧ t.lock = .unlocked then .locked else t.lock := by
  simp only [Target.deliver, Target.lock_relock_eeprom, Target.lock_foldl_storeNext_eeprom, Target.lock_setPtr]

theorem Target.lock_deliver_rtc (t : Target) (p : Byte) (ds : List Byte) :
    (t.deliver .rtc (p :: ds)).lock = lockAlong t.lock p ds := by
  simp [Target.deliver, Target.lock_foldl_storeNext_rtc]

/-- A transaction with the pointer only moves the pointer only (R38, R47). -/
@[simp] theorem Target.deliver_pointer (t : Target) (x : Device) (p : Byte) : t.deliver x [p] = t.setPtr x p := by
  simp [Target.deliver]

/-- Settles O32, by the table of `lockStep` and the lock after a store and after a transaction. -/
theorem theLockMachine : Obligations.TheLockMachine := by
  refine ⟨rfl, fun v => rfl, fun v => rfl, fun v => rfl, fun t v => ?_, fun t a v h => ?_, fun t p d ds h => ?_,
    fun t p => ?_⟩
  · rw [Target.lock_store_rtc, lockAfterRtcStore_unlockReg]
  · rw [Target.lock_store_rtc, lockAfterRtcStore_other _ _ h]
  · simp [Target.lock_deliver_eeprom, h]
  · simp

/-! ## What an `END` delivers -/

/-- An `END` of a pending transaction to a device delivers the bytes that arrive (R46, R47, R53). -/
theorem State.targetAfterEnd_eq {s : State} {a : DevAddr} {bytes : List Byte} {x : Device}
    (hw : s.bus.write = some (a, bytes)) (hx : deviceAt s.cfg a = some x) :
    s.targetAfterEnd = s.target.deliver x (s.env.arriving bytes) := by
  simp [State.targetAfterEnd, hw, hx]

theorem Env.arriving_nil {v : Env} (h : v.delivered = []) (bytes : List Byte) : v.arriving bytes = bytes := by
  simp [Env.arriving, h]

theorem Env.arriving_cons {v : Env} {j : Nat} {js : List Nat} (h : v.delivered = j :: js) (bytes : List Byte) :
    v.arriving bytes = bytes.take j := by
  simp [Env.arriving, h]

/-- Settles O30, by the lemmas of `Target.deliver`: the pointer, the other device, the byte at each address, the lock. -/
theorem endStoresThePendingBytes : Obligations.EndStoresThePendingBytes := by
  intro s a p ds x hcanon hw hx hdel hlen
  have hend : s.targetAfterEnd = s.target.deliver x (p :: ds) := by
    rw [State.targetAfterEnd_eq hw hx, Env.arriving_nil hdel]
  rw [hend]
  refine ⟨Target.ptr_deliver _ x p ds, fun y hy => Target.deliver_other _ _ hy, fun b => ?_, ?_, ?_⟩
  · rw [Target.read_deliver _ x p b ds ((memoryCanonical_iff s).mp hcanon) hlen]
    simp only [Target.takes_iff, State.byteAt]
    by_cases hin : (b - p).toNat < ds.length
    · rw [dif_pos hin, List.getD_eq_getElem _ _ hin]
    · rw [dif_neg hin, List.getD_eq_default _ _ (Nat.le_of_not_lt hin), ite_self]
  · rintro rfl
    exact Target.lock_deliver_eeprom _ p ds
  · rintro rfl
    exact Target.lock_deliver_rtc _ p ds

/-- Settles O31: the first `j` bytes arrive, `j` being the environment's, and what that is for three of its values. -/
theorem aFailedWriteDeliversAPrefix : Obligations.AFailedWriteDeliversAPrefix := by
  intro s a p ds x j js hw hx hdel
  have hend : s.targetAfterEnd = s.target.deliver x ((p :: ds).take j) := by
    rw [State.targetAfterEnd_eq hw hx, Env.arriving_cons hdel]
  refine ⟨hend, ?_, ?_, fun hj => ?_⟩
  · rintro rfl
    exact hend
  · rintro rfl
    simpa using hend
  · rw [hend, List.take_of_length_le (by simpa using hj)]

end Sys2Proof.Machine
end

section
/-! The memory statements (spec 20_memory.md), the traces: the transaction units they are made of, what a failure leaves of
them, and a primitive that never returns. -/

namespace Sys2Proof.Machine

/-! ## Transaction units -/

/-- One unit of R35: a write transaction, or one with the pointer only followed by a read. -/
def IsTransactionUnit (c : Config) (u : List Event) : Prop :=
  (∃ (a : DevAddr) (p : Byte) (ds : List Byte), (a = c.rtcDevAddr ∨ a = c.eepromDevAddr) ∧ ds.length ∈ [0, 1, 6, 7] ∧
    u = .beginT a :: .queue p :: (ds.map Event.queue ++ [.endT])) ∨
  (∃ (a : DevAddr) (p : Byte) (n : Nat), (a = c.rtcDevAddr ∨ a = c.eepromDevAddr) ∧ n ∈ [1, 6, 7] ∧
    u = [Event.beginT a, .queue p, .endT, .req a n] ++ List.replicate n .recv)

/-- A concatenation of units (R35). -/
def MadeOfUnits (c : Config) (tr : List Event) : Prop :=
  ∃ us : List (List Event), tr = us.flatten ∧ ∀ u ∈ us, IsTransactionUnit c u

/-- Only the two device addresses occur (R46, R70). -/
theorem addrOf_eq_or (c : Config) (dev : Device) : addrOf c dev = c.rtcDevAddr ∨ addrOf c dev = c.eepromDevAddr := by
  cases dev
  · exact .inl rfl
  · exact .inr rfl

theorem IsTransactionUnit.madeOfUnits {c : Config} {u : List Event} (h : IsTransactionUnit c u) : MadeOfUnits c u :=
  ⟨[u], by simp, by simpa using h⟩

theorem madeOfUnits_nil (c : Config) : MadeOfUnits c [] := ⟨[], rfl, by simp⟩

theorem MadeOfUnits.append {c : Config} {tr tr' : List Event} (h : MadeOfUnits c tr) (h' : MadeOfUnits c tr') :
    MadeOfUnits c (tr ++ tr') := by
  obtain ⟨us, rfl, hus⟩ := h
  obtain ⟨us', rfl, hus'⟩ := h'
  exact ⟨us ++ us', List.flatten_append.symm, fun u hu => (List.mem_append.mp hu).elim (hus u) (hus' u)⟩

theorem madeOfUnits_writeSeq (c : Config) (dev : Device) (p : Byte) (ds : List Byte) (h : ds.length ∈ [0, 1, 6, 7]) :
    MadeOfUnits c (writeSeq c dev p ds) :=
  IsTransactionUnit.madeOfUnits (.inl ⟨addrOf c dev, p, ds, addrOf_eq_or c dev, h, rfl⟩)

theorem madeOfUnits_readSeq (c : Config) (dev : Device) (p : Byte) (n : Nat) (h : n ∈ [1, 6, 7]) :
    MadeOfUnits c (readSeq c dev p n) :=
  IsTransactionUnit.madeOfUnits (.inr ⟨addrOf c dev, p, n, addrOf_eq_or c dev, h, rfl⟩)

/-- A read-modify-write is a read unit and a write unit (R112 to R114). -/
theorem madeOfUnits_modifyTrace (c : Config) (p : Byte) (f : Byte → Byte) (rx : Buf) :
    MadeOfUnits c (modifyTrace c p f rx) :=
  (madeOfUnits_readSeq c _ p 1 (by decide)).append (madeOfUnits_writeSeq c _ p _ (by simp))

/-- R35: every trace is a concatenation of units. -/
theorem madeOfUnits_traceOf (c : Config) (rx : Buf) (i : Instr) : MadeOfUnits c (traceOf c rx i) := by
  cases i
  case dec2bcd | bcd2dec => exact madeOfUnits_nil c
  case setdt => exact (madeOfUnits_writeSeq c _ _ _ (by simp [setdtBurst])).append (madeOfUnits_writeSeq c _ _ _ (by simp))
  case getdt => exact madeOfUnits_readSeq c _ _ _ (by decide)
  case clken | clkdis | baten => exact madeOfUnits_modifyTrace c _ _ rx
  case sramwr loc d =>
    simp only [traceOf, sramwrTrace]
    split
    · exact madeOfUnits_writeSeq c _ _ _ (by simp)
    · exact madeOfUnits_nil c
  case sramrd loc =>
    simp only [traceOf, sramrdTrace]
    split
    · exact madeOfUnits_readSeq c _ _ _ (by decide)
    · exact madeOfUnits_nil c
  case idunlock => exact (madeOfUnits_writeSeq c _ _ _ (by simp)).append (madeOfUnits_writeSeq c _ _ _ (by simp))
  case macwr => exact madeOfUnits_writeSeq c _ _ _ (by simp)
  case macrd => exact madeOfUnits_readSeq c _ _ _ (by decide)

/-- R35: a write unit of each length occurs: GETDT's pointer, BATEN's byte, MACWR's six and SETDT's seven. -/
theorem exists_writeSeq_within_traceOf {k : Nat} (hk : k ∈ [0, 1, 6, 7]) (c : Config) (rx : Buf) :
    ∃ (i : Instr) (dev : Device) (p : Byte) (ds : List Byte), ds.length = k ∧ writeSeq c dev p ds <:+: traceOf c rx i := by
  simp only [List.mem_cons, List.not_mem_nil, or_false] at hk
  obtain rfl | rfl | rfl | rfl := hk
  · exact ⟨.getdt, .rtc, c.rtcTimeBase, [], rfl, [], _, rfl⟩
  · exact ⟨.baten, .rtc, dowAddr c, [batenByte rx.b0], rfl, readSeq c .rtc (dowAddr c) 1, [], List.append_nil _⟩
  · exact ⟨.macwr 0 0 0 0 0 0, .eeprom, Const.macWritePtr, [0, 0, 0, 0, 0, 0], rfl, [], [], List.append_nil _⟩
  · exact ⟨.setdt 0 0 0 0 0 0 0, .rtc, c.rtcTimeBase, setdtBurst 0 0 0 0 0 0 0, rfl, [], _, rfl⟩

/-- The read of a read sequence is its end (R101). -/
theorem req_within_readSeq (c : Config) (dev : Device) (p : Byte) (n : Nat) :
    Event.req (addrOf c dev) n :: List.replicate n .recv <:+: readSeq c dev p n :=
  ⟨writeSeq c dev p [], [], List.append_nil _⟩

/-- R35: a read of each count occurs: BATEN's one byte, MACRD's six and GETDT's seven. -/
theorem exists_read_within_traceOf {n : Nat} (hn : n ∈ [1, 6, 7]) (c : Config) (rx : Buf) :
    ∃ (i : Instr) (dev : Device), Event.req (addrOf c dev) n :: List.replicate n .recv <:+: traceOf c rx i := by
  simp only [List.mem_cons, List.not_mem_nil, or_false] at hn
  obtain rfl | rfl | rfl := hn
  · exact ⟨.baten, .rtc, (req_within_readSeq c _ _ 1).trans ⟨[], _, rfl⟩⟩
  · exact ⟨.macrd, .eeprom, req_within_readSeq c _ _ 6⟩
  · exact ⟨.getdt, .rtc, req_within_readSeq c _ _ 7⟩

/-- Settles O25, by the write and read sequences each trace is built of. -/
theorem tracesAreTransactionUnits : Obligations.TracesAreTransactionUnits := by
  refine ⟨madeOfUnits_traceOf, fun k hk c rx => ?_, fun n hn c rx => ?_⟩
  · obtain ⟨i, dev, p, ds, hlen, hwithin⟩ := exists_writeSeq_within_traceOf hk c rx
    exact ⟨i, addrOf c dev, p, ds, hlen, hwithin⟩
  · obtain ⟨i, dev, hwithin⟩ := exists_read_within_traceOf hn c rx
    exact ⟨i, addrOf c dev, hwithin⟩

/-! ## A primitive that never returns -/

/-- R44: a busy block whose next call does not return steps to itself. -/
theorem step_of_hang {s : State} {i : Instr} (hw : s.cfg.wf = true) (hr : s.resetIn = false) (hp : s.phase = .busy)
    (hd : decode s.cmd = .ok i) (hlt : s.seq < (s.traceOf i).length) (hret : s.env.returns = some 0) :
    step s = .next s := by
  have hf : s.fetch = .run i := (State.fetch_of_busy hp).trans (fetchWord_eq_run_iff.mpr hd)
  have hexec : exec i s = .next s := by
    rw [exec_eq_runCommand, runCommand_hang hp (List.getElem?_eq_getElem hlt) hret]
  simp [step, hw, hr, hf, hexec]

/-- Settles O27: the step answers the same state, and so does every number of steps. -/
theorem aBlockedPrimitiveHangsTheBlock : Obligations.ABlockedPrimitiveHangsTheBlock :=
  fun _ _ n hw hr hp hd hlt hret => run_of_step_self (step_of_hang hw hr hp hd hlt hret) n

/-! ## What the events depend on -/

/-- The length of a trace does not depend on the bytes received (R104). -/
theorem length_traceOf (c : Config) (rx rx' : Buf) (i : Instr) : (traceOf c rx i).length = (traceOf c rx' i).length := by
  cases i <;> rfl

/-- No event but number 7 of a command that writes a byte back depends on the bytes received (R104). -/
theorem getElem?_traceOf (c : Config) (rx rx' : Buf) {i : Instr} {k : Nat} (h : ¬(k = 7 ∧ writesBack i = true)) :
    (traceOf c rx i)[k]? = (traceOf c rx' i)[k]? := by
  cases i
  case clken | clkdis | baten =>
    have hk : k ≠ 7 := fun hk => h ⟨hk, rfl⟩
    simp only [traceOf, modifyTrace, readSeq, writeSeq, addrOf]
    match k with
    | 0 | 1 | 2 | 3 | 4 | 5 | 6 | 8 => rfl
    | 7 => exact absurd rfl hk
    | k + 9 => rfl
  all_goals rfl

/-- Event number 7 of a command that writes a byte back is the `QUEUE` of that byte (R112 to R114). -/
theorem traceOf_seven_of_writesBack (c : Config) (rx : Buf) {i : Instr} (h : writesBack i = true) :
    ∃ b, (traceOf c rx i)[7]? = some (.queue b) := by
  cases i
  case clken | clkdis | baten => exact ⟨_, rfl⟩
  all_goals cases h

/-- The next events of two states that agree on configuration and `SEQ` are the same, but for the byte written back, and
that too where the bytes received are the same. -/
theorem nextEvent_eq {i : Instr} {s s' : State} {e e' : Event} (hcfg : s.cfg = s'.cfg) (hseq : s.seq = s'.seq)
    (he : (s.traceOf i)[s.seq]? = some e) (he' : (s'.traceOf i)[s'.seq]? = some e')
    (h : ¬(s.seq = 7 ∧ writesBack i = true) ∨ s.rxbuf = s'.rxbuf) : e = e' := by
  rw [State.traceOf, ← hcfg, ← hseq] at he'
  have hsame : (traceOf s.cfg s.rxbuf i)[s.seq]? = (traceOf s.cfg s'.rxbuf i)[s.seq]? :=
    h.elim (getElem?_traceOf s.cfg _ _) fun hrx => by rw [hrx]
  exact Option.some.inj (he.symm.trans (hsame.trans he'))

/-- The byte written back is put out by a `QUEUE`. -/
theorem nextEvent_eq_queue {i : Instr} {s : State} {e : Event} (he : (s.traceOf i)[s.seq]? = some e) (hseq : s.seq = 7)
    (hwb : writesBack i = true) : ∃ b, e = .queue b := by
  obtain ⟨b, hb⟩ := traceOf_seven_of_writesBack s.cfg s.rxbuf hwb
  rw [hseq] at he
  exact ⟨b, Option.some.inj (he.symm.trans hb)⟩

/-- Settles O28, by the phase and the place in the trace, on which the two states agree: there is an event in both or in
neither, and it is the same event but for the byte written back. -/
theorem aFailureDoesNotChangeTheTrace : Obligations.AFailureDoesNotChangeTheTrace := by
  intro i s s' hcfg hphase hseq hcmd hstatus hevents hreturns
  have hlen : (s.traceOf i).length = (s'.traceOf i).length := by
    simpa only [State.traceOf, hcfg] using length_traceOf s'.cfg s.rxbuf s'.rxbuf i
  simp only [exec_eq_runCommand]
  cases hp : s.phase with
  | idle =>
    have hp' : s'.phase = .idle := hphase ▸ hp
    by_cases ht : s.traceOf i = []
    · have ht' : s'.traceOf i = [] := List.eq_nil_of_length_eq_zero (by simp [← hlen, ht])
      refine ⟨_, _, runCommand_idle_empty hp ht, runCommand_idle_empty hp' ht', ?_⟩
      simp [finishOf_frame, hevents, hreturns]
    · have ht' : s'.traceOf i ≠ [] := fun h => ht (List.eq_nil_of_length_eq_zero (by simp [hlen, h]))
      refine ⟨_, _, runCommand_idle hp ht, runCommand_idle hp' ht', ?_⟩
      simp [hevents, hreturns]
  | busy =>
    have hp' : s'.phase = .busy := hphase ▸ hp
    by_cases hlt : s.seq < (s.traceOf i).length
    · have he := List.getElem?_eq_getElem hlt
      have he' := List.getElem?_eq_getElem (show s'.seq < (s'.traceOf i).length by omega)
      by_cases hret : s.env.returns = some 0
      · refine ⟨s, s', runCommand_hang hp he hret, runCommand_hang hp' he' (hreturns ▸ hret), ?_⟩
        simp [hphase, hseq, hcmd, hstatus, hevents, hreturns]
      · refine ⟨_, _, runCommand_event hp he hret, runCommand_event hp' he' (hreturns ▸ hret), hphase, by simp [hseq],
          hcmd, hstatus, by simp [Env.after, hreturns], fun hne => ?_, fun hrx => ?_, fun _ h7 hwb => .inr ?_⟩
        · simp [hevents, nextEvent_eq hcfg hseq he he' (.inl fun h => hne ⟨rfl, h⟩)]
        · simp [hevents, nextEvent_eq hcfg hseq he he' (.inr hrx)]
        · obtain ⟨b, hb⟩ := nextEvent_eq_queue he h7 hwb
          obtain ⟨b', hb'⟩ := nextEvent_eq_queue he' (hseq ▸ h7) hwb
          exact ⟨b, b', by simp [hb], by simp [hb', hevents]⟩
    · refine ⟨_, _, runCommand_complete hp (by omega), runCommand_complete hp' (by omega), ?_⟩
      simp [finishOf_frame, hseq, hcmd, hevents, hreturns]

end Sys2Proof.Machine
end

section
/-! The memory statements (spec 20_memory.md), the frames: which bytes of the target a step of a command can change. -/

namespace Sys2Proof.Machine

/-! ## The bytes that arrive -/

/-- What arrives of a transaction is nothing, or the pointer and the first of the data bytes (R53). -/
theorem Env.arriving_eq (v : Env) (p : Byte) (ds : List Byte) :
    v.arriving (p :: ds) = [] ∨ ∃ k, v.arriving (p :: ds) = p :: ds.take k := by
  cases h : v.delivered with
  | nil => exact .inr ⟨ds.length, by simp [Env.arriving_nil h]⟩
  | cons j js =>
    rw [Env.arriving_cons h]
    cases j with
    | zero => exact .inl rfl
    | succ k => exact .inr ⟨k, rfl⟩

/-- When an event stores to an address: an `END`, of a transaction to the device, one of whose arriving data bytes falls
on the address (R46, R47, R53). -/
theorem State.storesAt_iff {s : State} {e : Event} {x : Device} {b : Byte} :
    s.storesAt e x b = true ↔ e = .endT ∧ ∃ a bytes p ds, s.bus.write = some (a, bytes) ∧ deviceAt s.cfg a = some x ∧
      s.env.arriving bytes = p :: ds ∧ (b - p).toNat < ds.length := by
  cases e
  case endT =>
    simp only [State.storesAt, State.endStores, true_and]
    cases hw : s.bus.write with
    | none => simp
    | some w =>
      obtain ⟨a, bytes⟩ := w
      cases hx : deviceAt s.cfg a <;> cases ha : s.env.arriving bytes <;> simp [hx, ha, eq_comm (a := x)]
  all_goals simp [State.storesAt]

/-- An event leaves every byte alone that it does not store to (R46, R47). -/
theorem State.read_targetAfter {s : State} {e : Event} {x : Device} {b : Byte} (h : s.storesAt e x b = false) :
    Memory.read ((s.targetAfter e).mem x) b = Memory.read (s.target.mem x) b := by
  cases e
  case endT =>
    obtain heq | ⟨a, bytes, y, hw, hy, heq⟩ := s.targetAfterEnd_cases
    · rw [State.targetAfter, heq]
    · rw [State.targetAfter, heq]
      cases ha : s.env.arriving bytes with
      | nil => rfl
      | cons p ds =>
        refine s.target.read_deliver_outside y x p b ds ?_
        by_contra! hin
        obtain ⟨rfl, hlt⟩ := hin
        rw [State.storesAt_iff.mpr ⟨rfl, a, bytes, p, ds, hw, hy, ha, hlt⟩] at h
        cases h
  case recv =>
    obtain ⟨hmem, -⟩ := s.targetAfterRecv_frame
    rw [State.targetAfter, hmem]
  all_goals rfl

/-- Settles O56: a step that emits no event leaves the target alone, and an event changes only the bytes it stores to. -/
theorem onlyDeliveredBytesAreStored : Obligations.OnlyDeliveredBytesAreStored := by
  intro i s t x b _ h hstores
  obtain ⟨e, hp, he, rfl⟩ | ⟨-, -, htarget, -⟩ := exec_emits_or_keeps h
  · exact State.read_targetAfter (hstores e hp he)
  · rw [State.byteAt, State.byteAt, htarget]

/-! ## What each `END` of a trace finds pending -/

/-- Each `END` of the events, emitted from pending transaction `b` on, finds open a write transaction that meets `P`. -/
def EndsFind (P : DevAddr → List Byte → Prop) : Bus → List Event → Prop
  | _, [] => True
  | b, e :: es => (e = .endT → ∃ a bytes, b.write = some (a, bytes) ∧ P a bytes) ∧ EndsFind P (b.after e) es

section
variable {P : DevAddr → List Byte → Prop}

theorem endsFind_append (b : Bus) (es es' : List Event) :
    EndsFind P b (es ++ es') ↔ EndsFind P b es ∧ EndsFind P (es.foldl Bus.after b) es' := by
  induction es generalizing b with
  | nil => simp [EndsFind]
  | cons e es ih => simp [EndsFind, ih, and_assoc]

theorem endsFind_queues (b : Bus) (ds : List Byte) : EndsFind P b (ds.map Event.queue) := by
  induction ds generalizing b with
  | nil => trivial
  | cons d ds ih => exact ⟨nofun, ih _⟩

theorem endsFind_recvs (b : Bus) (n : Nat) : EndsFind P b (List.replicate n .recv) := by
  induction n generalizing b with
  | zero => trivial
  | succ n ih => exact ⟨nofun, ih _⟩

/-- Queued bytes are appended to the open transaction (R34). -/
theorem foldl_after_queues (a : DevAddr) (bytes ds : List Byte) (r : Option (DevAddr × Nat)) :
    (ds.map Event.queue).foldl Bus.after ⟨some (a, bytes), r⟩ = ⟨some (a, bytes ++ ds), r⟩ := by
  induction ds generalizing bytes with
  | nil => simp
  | cons d ds ih => simp [Bus.after, ih]

/-- The one `END` of a write sequence finds its own pointer and data bytes pending, whatever was pending before. -/
theorem endsFind_writeSeq (b : Bus) (c : Config) (dev : Device) (p : Byte) (ds : List Byte) :
    EndsFind P b (writeSeq c dev p ds) ↔ P (addrOf c dev) (p :: ds) := by
  simp [writeSeq, EndsFind, endsFind_append, endsFind_queues, foldl_after_queues, Bus.after]

theorem endsFind_readSeq (b : Bus) (c : Config) (dev : Device) (p : Byte) (n : Nat) :
    EndsFind P b (readSeq c dev p n) ↔ P (addrOf c dev) [p] := by
  simp [readSeq, endsFind_append, endsFind_writeSeq, EndsFind, endsFind_recvs]

/-- The `END` at place `k`, from the events before it. -/
theorem EndsFind.write_eq {es : List Event} {b : Bus} {k : Nat} (h : EndsFind P b es) (hk : es[k]? = some .endT) :
    ∃ a bytes, ((es.take k).foldl Bus.after b).write = some (a, bytes) ∧ P a bytes := by
  induction es generalizing b k with
  | nil => simp at hk
  | cons e es ih =>
    obtain ⟨hhead, htail⟩ := h
    cases k with
    | zero => exact hhead (by simpa using hk)
    | succ k => exact ih htail (by simpa using hk)

end

/-- A transaction whose data bytes fall on registers the command may store to. -/
def CoversMayStore (c : Config) (i : Instr) (a : DevAddr) (bytes : List Byte) : Prop :=
  ∃ dev p ds, a = addrOf c dev ∧ bytes = p :: ds ∧ ∀ r : Byte, (r - p).toNat < ds.length → mayStore c dev r i = true

theorem coversMayStore_pointer (c : Config) (i : Instr) (dev : Device) (p : Byte) :
    CoversMayStore c i (addrOf c dev) [p] :=
  ⟨dev, p, [], rfl, rfl, nofun⟩

theorem coversMayStore_single {c : Config} {i : Instr} {dev : Device} {p : Byte} (d : Byte)
    (h : mayStore c dev p i = true) : CoversMayStore c i (addrOf c dev) [p, d] := by
  refine ⟨dev, p, [d], rfl, rfl, fun r hr => ?_⟩
  have hrp : r = p := by
    simp only [List.length_singleton] at hr
    bv_omega
  rw [hrp, h]

/-- R31, R32, R38: every transaction of a command's trace covers only registers the command may store to. -/
theorem endsFind_traceOf (c : Config) (rx : Buf) (i : Instr) (b : Bus) :
    EndsFind (CoversMayStore c i) b (traceOf c rx i) := by
  cases i
  case dec2bcd | bcd2dec => trivial
  case setdt sec mi h dow dom mo y =>
    refine (endsFind_append b _ _).mpr ⟨(endsFind_writeSeq b c _ _ _).mpr ?_, (endsFind_writeSeq _ c _ _ _).mpr ?_⟩
    · exact ⟨.rtc, _, _, rfl, rfl, fun r hr => decide_eq_true (p := (r - c.rtcTimeBase).toNat < Const.dtLen) hr⟩
    · exact coversMayStore_single _ (by simp [mayStore, Const.dtLen])
  case getdt | macrd => exact (endsFind_readSeq b c _ _ _).mpr (coversMayStore_pointer c _ _ _)
  case clken | clkdis | baten =>
    refine (endsFind_append b _ _).mpr ⟨(endsFind_readSeq b c _ _ _).mpr (coversMayStore_pointer c _ _ _),
      (endsFind_writeSeq _ c _ _ _).mpr (coversMayStore_single _ ?_)⟩
    simp [mayStore, dowAddr, Const.dowOffset]
  case sramwr loc d =>
    simp only [traceOf, sramwrTrace]
    split
    · next hin => exact (endsFind_writeSeq b c _ _ _).mpr (coversMayStore_single _ (by simp [mayStore, hin]))
    · trivial
  case sramrd loc =>
    simp only [traceOf, sramrdTrace]
    split
    · exact (endsFind_readSeq b c _ _ _).mpr (coversMayStore_pointer c _ _ _)
    · trivial
  case idunlock =>
    refine (endsFind_append b _ _).mpr ⟨(endsFind_writeSeq b c _ _ _).mpr ?_, (endsFind_writeSeq _ c _ _ _).mpr ?_⟩
    all_goals exact coversMayStore_single _ rfl
  case macwr b0 b1 b2 b3 b4 b5 =>
    refine (endsFind_writeSeq b c _ _ _).mpr ⟨.eeprom, _, _, rfl, rfl, fun r hr => ?_⟩
    simp only [Const.macWritePtr, List.length_cons, List.length_nil] at hr
    simp only [mayStore, decide_true, Bool.true_and, Bool.and_eq_true, decide_eq_true_eq]
    bv_omega

/-- R104: at an `END` of the command it holds, a sequenced block has pending a transaction to registers of that command. -/
theorem Sequenced.pending_at_end {s : State} {i : Instr} (hs : Sequenced s) (hp : s.phase = .busy)
    (hd : decode s.cmd = .ok i) (he : (s.traceOf i)[s.seq]? = some .endT) :
    ∃ dev p ds, s.bus.write = some (addrOf s.cfg dev, p :: ds) ∧
      ∀ r : Byte, (r - p).toNat < ds.length → mayStore s.cfg dev r i = true := by
  obtain ⟨-, -, hbus⟩ := hs.of_fetch_run hp ((State.fetch_of_busy hp).trans (fetchWord_eq_run_iff.mpr hd))
  obtain ⟨a, bytes, hw, dev, p, ds, rfl, rfl, hcov⟩ := (endsFind_traceOf s.cfg s.rxbuf i ⟨none, none⟩).write_eq he
  exact ⟨dev, p, ds, by rw [hbus]; exact hw, hcov⟩

/-! ## The registers a command stores to -/

/-- In a well-formed configuration each device answers at its own address (R6, R46). -/
theorem deviceAt_addrOf {c : Config} (hw : c.wf = true) (dev : Device) : deviceAt c (addrOf c dev) = some dev := by
  obtain ⟨hne, -⟩ := c.wf_iff.mp hw
  cases dev
  · simp [deviceAt, addrOf]
  · simp [deviceAt, addrOf, hne.symm]

/-- Settles O57: an `END` delivers the first bytes of a transaction that covers only registers of the command held, to the device
it addresses. -/
theorem commandsKeepToTheirRegisters : Obligations.CommandsKeepToTheirRegisters := by
  intro i s t x b hw hs hknown hd h hmay
  refine onlyDeliveredBytesAreStored i s t x b hknown h fun e hp he => ?_
  rw [← Bool.not_eq_true, State.storesAt_iff]
  rintro ⟨rfl, a, bytes, p, ds, hwrite, hx, harr, hlt⟩
  obtain ⟨dev, q, es, hpend, hcov⟩ := hs.pending_at_end hp (hd hp) he
  obtain ⟨rfl, rfl⟩ := Prod.mk.inj (Option.some.inj (hwrite.symm.trans hpend))
  obtain rfl : dev = x := by simpa [deviceAt_addrOf hw] using hx
  obtain hnil | ⟨k, hk⟩ := s.env.arriving_eq q es
  · simp [hnil] at harr
  · obtain ⟨rfl, rfl⟩ := List.cons.inj (hk.symm.trans harr)
    rw [hcov b (hlt.trans_le (List.length_take_le' k es))] at hmay
    cases hmay

/-- R38: the commands that store nothing may store to no register. -/
theorem mayStore_of_storesNothing {i : Instr} (h : storesNothing i = true) (c : Config) (x : Device) (a : Byte) :
    mayStore c x a i = false := by
  cases i
  case dec2bcd | bcd2dec | getdt | sramrd | macrd => rfl
  all_goals cases h

/-- R38, R40: an event of a command that stores nothing changes no byte and not the lock: its transactions carry the
pointer only. -/
theorem targetAfter_of_storesNothing {i : Instr} {s : State} {e : Event} (hi : storesNothing i = true)
    (hs : Sequenced s) (hp : s.phase = .busy) (hd : decode s.cmd = .ok i) (he : (s.traceOf i)[s.seq]? = some e) :
    (∀ x, (s.targetAfter e).mem x = s.target.mem x) ∧ (s.targetAfter e).lock = s.target.lock := by
  cases e
  case endT =>
    obtain ⟨dev, p, ds, hpend, hcov⟩ := hs.pending_at_end hp hd he
    obtain rfl : ds = [] := by
      by_contra hne
      have := hcov p (by simpa using List.length_pos_iff.mpr hne)
      simp [mayStore_of_storesNothing hi] at this
    obtain heq | ⟨a, bytes, x, hwrite, -, heq⟩ := s.targetAfterEnd_cases
    · simp [State.targetAfter, heq]
    · obtain ⟨-, rfl⟩ := Prod.mk.inj (Option.some.inj (hwrite.symm.trans hpend))
      rw [State.targetAfter, heq]
      obtain hnil | ⟨k, hk⟩ := s.env.arriving_eq p []
      · rw [hnil]
        exact ⟨fun _ => rfl, rfl⟩
      · simp [hk]
  case recv =>
    obtain ⟨hmem, hlock, -⟩ := s.targetAfterRecv_frame
    exact ⟨hmem, hlock⟩
  all_goals exact ⟨fun _ => rfl, rfl⟩

/-- Settles O58: a step that emits no event leaves the target alone, and none of these commands' events changes a byte or
the lock. -/
theorem readingCommandsStoreNothing : Obligations.ReadingCommandsStoreNothing := by
  intro i s t hi hs _ hd h
  obtain ⟨e, hp, he, rfl⟩ | ⟨-, -, htarget, -⟩ := exec_emits_or_keeps h
  · obtain ⟨hmem, hlock⟩ := targetAfter_of_storesNothing hi hs hp (hd hp) he
    exact ⟨fun x a => by rw [State.byteAt, State.emit_target, hmem, State.byteAt], hlock⟩
  · simp [State.byteAt, htarget]

end Sys2Proof.Machine
end

section
/-! The memory statements (spec 20_memory.md), reads and whole transactions: what a `RECV` returns and moves, what a write
sequence with no failure leaves in the target, and SETDT from acceptance to completion. -/

namespace Sys2Proof.Machine

/-! ## One `RECV` -/

/-- The pending read names the device a `RECV` reads (R34, R46). -/
theorem State.readDevice_eq {s : State} {a : DevAddr} {k : Nat} (h : s.bus.read = some (a, k + 1)) :
    s.readDevice = deviceAt s.cfg a := by
  simp [State.readDevice, h]

/-- Where the `RECV` is lost no device answers, known target or not (R53, R172). -/
theorem State.answering_of_lost {s : State} {moves : Bool} (h : s.env.nextRecv = .lost moves) : s.answering = none := by
  simp [State.answering, h]

/-- A lost `RECV` moves no pointer, or that of the device read by one (R53; log 8). -/
theorem State.targetAfterRecv_of_lost {s : State} {moves : Bool} (h : s.env.nextRecv = .lost moves) (x : Device) :
    s.targetAfterRecv.ptr x =
      if moves = true ∧ s.readDevice = some x then s.target.ptr x + 1#8 else s.target.ptr x := by
  unfold State.targetAfterRecv
  cases hr : s.readDevice with
  | none => simp
  | some y =>
    cases moves with
    | false => simp [h]
    | true =>
      by_cases hxy : y = x
      · simp [h, hxy]
      · simp [h, hxy, Target.advancePtr, Target.ptr_setPtr_other _ _ (Ne.symm hxy)]

/-- Settles O34: the plan's next entry makes the byte an `any8`, and no device answers. -/
theorem aLostRecvReturnsAny8 : Obligations.ALostRecvReturnsAny8 := by
  intro s tr moves plans h
  have hplan : s.env.nextRecv = .lost moves := by simp [Env.nextRecv, h]
  have hans := State.answering_of_lost hplan
  have hbyte : s.received = Config.any8 s.draws := by simp [State.received, hans]
  obtain ⟨hmem, hlock, -⟩ := s.targetAfterRecv_frame
  refine ⟨hbyte, by simp [State.drawsAfter, hans], by simp [Env.after, h], ?_, fun x => ⟨hmem x, ?_⟩, hlock⟩
  · rw [State.emit_rxbuf, State.rxAfter, hbyte, rxIndex]
  · exact State.targetAfterRecv_of_lost hplan x

/-! ## Events emitted one after the other -/

@[simp] theorem State.emitAll_nil (s : State) (tr : List Event) : s.emitAll tr [] = s := rfl

@[simp] theorem State.emitAll_cons (s : State) (tr es : List Event) (e : Event) :
    s.emitAll tr (e :: es) = (s.emit tr e).emitAll tr es := rfl

theorem State.emitAll_append (s : State) (tr es es' : List Event) :
    s.emitAll tr (es ++ es') = (s.emitAll tr es).emitAll tr es' :=
  List.foldl_append

@[simp] theorem State.emitAll_cfg (s : State) (tr es : List Event) : (s.emitAll tr es).cfg = s.cfg := by
  induction es generalizing s with
  | nil => rfl
  | cons e es ih => exact ih _

@[simp] theorem State.emitAll_seq (s : State) (tr es : List Event) : (s.emitAll tr es).seq = s.seq + es.length := by
  induction es generalizing s with
  | nil => rfl
  | cons e es ih => rw [State.emitAll_cons, ih, State.emit_seq, List.length_cons, Nat.add_assoc, Nat.add_comm 1]

theorem State.emitAll_bus (s : State) (tr es : List Event) : (s.emitAll tr es).bus = es.foldl Bus.after s.bus := by
  induction es generalizing s with
  | nil => rfl
  | cons e es ih => exact ih _

/-- Only an `END` and a `RECV` reach the target (R40). -/
theorem State.emitAll_target {es : List Event} (s : State) (tr : List Event) (h : ∀ e ∈ es, e ≠ .endT ∧ e ≠ .recv) :
    (s.emitAll tr es).target = s.target := by
  induction es generalizing s with
  | nil => rfl
  | cons e es ih =>
    obtain ⟨⟨hend, hrecv⟩, hes⟩ := List.forall_mem_cons.mp h
    have hkeep : s.targetAfter e = s.target := by
      by_contra hne
      exact (State.targetAfter_ne hne).elim hend hrecv
    exact (ih _ hes).trans hkeep

/-- A plan with no failure stays one. -/
theorem NoFailure.emit {s : State} (h : NoFailure s) (tr : List Event) (e : Event) : NoFailure (s.emit tr e) := by
  obtain ⟨henv, hknown⟩ := h
  exact ⟨by simp [Env.after, henv], (s.known_targetAfter e).trans hknown⟩

theorem NoFailure.emitAll {s : State} (h : NoFailure s) (tr es : List Event) : NoFailure (s.emitAll tr es) := by
  induction es generalizing s with
  | nil => exact h
  | cons e es ih => exact ih (h.emit tr e)

/-- With no failure a `RECV` of a device returns the byte at its pointer (R49). -/
theorem NoFailure.received_eq {s : State} (h : NoFailure s) {x : Device} (hx : s.readDevice = some x) :
    s.received = s.byteAt x (s.target.ptr x) := by
  obtain ⟨henv, hknown⟩ := h
  simp [State.received, State.answering, hknown, henv, Env.nextRecv, hx, State.byteAt]

/-- With no failure a `RECV` of a device advances its pointer (R49). -/
theorem NoFailure.targetAfterRecv_eq {s : State} (h : NoFailure s) {x : Device} (hx : s.readDevice = some x) :
    s.targetAfterRecv = s.target.advancePtr x := by
  obtain ⟨henv, -⟩ := h
  simp [State.targetAfterRecv, hx, henv, Env.nextRecv]

/-! ## A read with no failure -/

@[simp] theorem Target.setPtr_self (t : Target) (x : Device) : t.setPtr x (t.ptr x) = t := by
  cases x <;> rfl

@[simp] theorem Target.setPtr_setPtr (t : Target) (x : Device) (p q : Byte) : (t.setPtr x p).setPtr x q = t.setPtr x q := by
  cases x <;> rfl

/-- After a `REQ` of `n` bytes and `i` of its `RECV`s: `n - i` bytes are left to read, and the target has moved its pointer
on by `i`, modulo 256, and nothing else (R34, R49). -/
theorem NoFailure.emitAll_req {s : State} (h : NoFailure s) {a : DevAddr} {x : Device} (hx : deviceAt s.cfg a = some x)
    (tr : List Event) {n i : Nat} (hi : i ≤ n) :
    (i < n → (s.emitAll tr (.req a n :: List.replicate i .recv)).bus.read = some (a, n - i)) ∧
    (s.emitAll tr (.req a n :: List.replicate i .recv)).target = s.target.setPtr x (s.target.ptr x + BitVec.ofNat 8 i) := by
  induction i with
  | zero => exact ⟨fun _ => rfl, by simp [State.targetAfter]⟩
  | succ i ih =>
    obtain ⟨hread, htarget⟩ := ih (by omega)
    have hnf := h.emitAll tr (.req a n :: List.replicate i .recv)
    have hcfg := s.emitAll_cfg tr (.req a n :: List.replicate i .recv)
    rw [List.replicate_succ', ← List.cons_append, State.emitAll_append]
    generalize s.emitAll tr (.req a n :: List.replicate i .recv) = u at *
    obtain ⟨k, hk⟩ : ∃ k, n - i = k + 1 := ⟨n - i - 1, by omega⟩
    rw [hk] at hread
    have hread := hread (by omega)
    constructor
    · intro hlt
      obtain ⟨k', rfl⟩ : ∃ k', k = k' + 1 := ⟨k - 1, by omega⟩
      simp [Bus.after, hread, show n - (i + 1) = k' + 1 by omega]
    · have hdev : u.readDevice = some x := by rw [State.readDevice_eq hread, hcfg, hx]
      simp [State.targetAfter, hnf.targetAfterRecv_eq hdev, htarget, Target.advancePtr, BitVec.add_assoc, BitVec.ofNat_add]

/-- Settles O33: what `i` `RECV`s after the `REQ` leave, and what the next one returns there. -/
theorem recvReturnsTheByteAtThePointer : Obligations.RecvReturnsTheByteAtThePointer := by
  intro s tr a n i x h hx hi
  obtain ⟨hread, htarget⟩ := h.emitAll_req hx tr hi
  refine ⟨fun hlt => ?_, by rw [htarget, Target.ptr_setPtr_same], fun y => by rw [htarget, Target.mem_setPtr],
    by rw [htarget, Target.lock_setPtr]⟩
  have hnf := h.emitAll tr (.req a n :: List.replicate i .recv)
  have hread := hread hlt
  rw [show n - i = n - i - 1 + 1 by omega] at hread
  have hdev := (State.readDevice_eq hread).trans ((congrArg (deviceAt · a) (s.emitAll_cfg tr _)).trans hx)
  rw [hnf.received_eq hdev, State.byteAt, State.byteAt, htarget, Target.ptr_setPtr_same, Target.mem_setPtr]

/-! ## A write with no failure -/

/-- A write sequence to a device delivers its pointer and all its data bytes (R47, R100). -/
theorem NoFailure.emitAll_writeSeq {s : State} (h : NoFailure s) {dev : Device}
    (hx : deviceAt s.cfg (addrOf s.cfg dev) = some dev) (tr : List Event) (p : Byte) (ds : List Byte) :
    (s.emitAll tr (writeSeq s.cfg dev p ds)).target = s.target.deliver dev (p :: ds) := by
  have hsplit : writeSeq s.cfg dev p ds = (.beginT (addrOf s.cfg dev) :: .queue p :: ds.map Event.queue) ++ [.endT] := rfl
  rw [hsplit, State.emitAll_append]
  have htarget := s.emitAll_target (es := .beginT (addrOf s.cfg dev) :: .queue p :: ds.map Event.queue) tr (by simp)
  obtain ⟨henv, -⟩ := h.emitAll tr (.beginT (addrOf s.cfg dev) :: .queue p :: ds.map Event.queue)
  have hbus : (s.emitAll tr (.beginT (addrOf s.cfg dev) :: .queue p :: ds.map Event.queue)).bus.write =
      some (addrOf s.cfg dev, p :: ds) := by
    simp [State.emitAll_bus, Bus.after, foldl_after_queues]
  rw [State.emitAll_cons, State.emitAll_nil, State.emit_target, State.targetAfter,
    State.targetAfterEnd_eq hbus (by simpa using hx), htarget, Env.arriving_nil (by rw [henv])]

/-- The RTC device answers at its address in every configuration (R46). -/
theorem deviceAt_rtc (c : Config) : deviceAt c (addrOf c .rtc) = some .rtc := by
  simp [deviceAt, addrOf]

/-- The address `k` on from `p` lies `k` on from it. -/
theorem toNat_add_sub_ofNat {p : Byte} {k : Nat} (hk : k < 256) : (p + BitVec.ofNat 8 k - p).toNat = k := by
  rw [add_sub_cancel_left, BitVec.toNat_ofNat, Nat.mod_eq_of_lt hk]

section
variable {s t : State} {p : Byte} {ds : List Byte}

/-- Data byte `k` of a transaction to the RTC is the byte at the pointer plus `k` (R47, R51). -/
theorem byteAt_of_deliver_rtc (hs : MemoryCanonical s) (ht : t.target = s.target.deliver .rtc (p :: ds))
    (hlen : ds.length ≤ 256) {k : Nat} (hk : k < ds.length) : t.byteAt .rtc (p + BitVec.ofNat 8 k) = ds[k] := by
  rw [State.byteAt, ht, Target.read_deliver _ .rtc p _ ds ((memoryCanonical_iff s).mp hs) hlen,
    if_pos (by simp [Target.takes]), toNat_add_sub_ofNat (by omega), List.getD_eq_getElem _ _ hk]

/-- The first data byte of a transaction to the RTC is the byte at the pointer. -/
theorem byteAt_pointer_of_deliver_rtc {d : Byte} (hs : MemoryCanonical s)
    (ht : t.target = s.target.deliver .rtc (p :: d :: ds)) (hlen : (d :: ds).length ≤ 256) : t.byteAt .rtc p = d :=
  (congrArg (t.byteAt .rtc) (BitVec.add_zero p)).symm.trans (byteAt_of_deliver_rtc hs ht hlen (k := 0) (Nat.succ_pos _))

/-- A transaction to the RTC changes no byte past its data bytes, and none of the EEPROM (R46, R47). -/
theorem byteAt_of_deliver_rtc_outside (ht : t.target = s.target.deliver .rtc (p :: ds)) {x : Device} {b : Byte}
    (h : x ≠ .rtc ∨ ds.length ≤ (b - p).toNat) : t.byteAt x b = s.byteAt x b := by
  rw [State.byteAt, ht, Target.read_deliver_outside _ _ _ _ _ _ h, State.byteAt]

theorem memoryCanonical_of_deliver (hs : MemoryCanonical s) {x : Device} {bytes : List Byte}
    (ht : t.target = s.target.deliver x bytes) : MemoryCanonical t :=
  (memoryCanonical_iff t).mpr fun z => by
    rw [ht]
    exact s.target.deliver_wf x z _ ((memoryCanonical_iff s).mp hs)

end

/-- Settles O36: the first write stores the byte at `a`, the second sets the pointer back to `a`, and the `RECV` returns the
byte there. -/
theorem aLocationKeepsTheLastByteStored : Obligations.ALocationKeepsTheLastByteStored := by
  intro s a v tr hs h
  rw [State.emitAll_append, State.emitAll_append, State.emitAll_cons, State.emitAll_nil]
  have hstored := h.emitAll_writeSeq (deviceAt_rtc s.cfg) tr a [v]
  have hnf := h.emitAll tr (writeSeq s.cfg .rtc a [v])
  have hcfg := s.emitAll_cfg tr (writeSeq s.cfg .rtc a [v])
  generalize s.emitAll tr (writeSeq s.cfg .rtc a [v]) = t at *
  rw [← hcfg]
  have hpointed := hnf.emitAll_writeSeq (deviceAt_rtc t.cfg) tr a []
  have hnf' := (hnf.emitAll tr (writeSeq t.cfg .rtc a [])).emit tr (.req t.cfg.rtcDevAddr 1)
  have hdev : ((t.emitAll tr (writeSeq t.cfg .rtc a [])).emit tr (.req t.cfg.rtcDevAddr 1)).readDevice = some .rtc := by
    rw [State.readDevice_eq (a := t.cfg.rtcDevAddr) (k := 0) rfl, State.emit_cfg, State.emitAll_cfg]
    exact deviceAt_rtc t.cfg
  have htarget : ((t.emitAll tr (writeSeq t.cfg .rtc a [])).emit tr (.req t.cfg.rtcDevAddr 1)).target =
      t.target.setPtr .rtc a := by
    rw [← Target.deliver_pointer, ← hpointed]
    rfl
  rw [hnf'.received_eq hdev, State.byteAt, htarget, Target.ptr_setPtr_same, Target.mem_setPtr]
  exact byteAt_pointer_of_deliver_rtc hs hstored (by simp)

/-! ## The run of a command -/

/-- A busy block that holds command `i`, whose calls all return. -/
structure Running (i : Instr) (s : State) : Prop where
  wf : s.cfg.wf = true
  resetIn : s.resetIn = false
  phase : s.phase = .busy
  decode : decode s.cmd = .ok i
  returns : s.env.returns = none

theorem Running.emit {i : Instr} {s : State} (h : Running i s) (tr : List Event) (e : Event) : Running i (s.emit tr e) :=
  ⟨h.wf, h.resetIn, h.phase, h.decode, by simp [Env.after, h.returns]⟩

theorem Running.emitAll {i : Instr} {s : State} (h : Running i s) (tr es : List Event) : Running i (s.emitAll tr es) := by
  induction es generalizing s with
  | nil => exact h
  | cons e es ih => exact ih (h.emit tr e)

theorem Running.step_eq {i : Instr} {s : State} (h : Running i s) : step s = exec i s := by
  have hf : s.fetch = .run i := (State.fetch_of_busy h.phase).trans (fetchWord_eq_run_iff.mpr h.decode)
  simp [step, h.wf, h.resetIn, hf]

/-- The trace of a command that writes back no byte does not depend on the bytes received (R104). -/
theorem traceOf_eq_of_not_writesBack {i : Instr} (h : writesBack i = false) (c : Config) (rx rx' : Buf) :
    traceOf c rx i = traceOf c rx' i := by
  cases i
  case clken | clkdis | baten => cases h
  all_goals rfl

theorem State.traceOf_emit {i : Instr} (h : writesBack i = false) (s : State) (tr : List Event) (e : Event) :
    (s.emit tr e).traceOf i = s.traceOf i :=
  traceOf_eq_of_not_writesBack h _ _ _

/-- R104: as many steps as there are events next in the trace emit those events. -/
theorem Running.run_emitAll {i : Instr} {s : State} (h : Running i s) (hi : writesBack i = false) {es rest : List Event}
    (hes : (s.traceOf i).drop s.seq = es ++ rest) (n : Nat) :
    Host.Core.run core (es.length + n) s = Host.Core.run core n (s.emitAll (s.traceOf i) es) := by
  induction es generalizing s with
  | nil => simp
  | cons e es ih =>
    have he : (s.traceOf i)[s.seq]? = some e := by
      rw [← List.head?_drop, hes, List.cons_append, List.head?_cons]
    have hstep : step s = .next (s.emit (s.traceOf i) e) := by
      rw [h.step_eq, exec_eq_runCommand, runCommand_event h.phase he (by simp [h.returns])]
    have htail : ((s.emit (s.traceOf i) e).traceOf i).drop (s.emit (s.traceOf i) e).seq = es ++ rest := by
      rw [State.traceOf_emit hi, State.emit_seq, ← List.tail_drop, hes, List.cons_append, List.tail_cons]
    rw [List.length_cons, Nat.add_right_comm, run_succ hstep, ih (h.emit _ e) htail, State.traceOf_emit hi,
      State.emitAll_cons]

/-- R104: the step after the last event completes the command. -/
theorem Running.step_complete {i : Instr} {s : State} (h : Running i s) (hlen : (s.traceOf i).length ≤ s.seq) :
    step s = .next (finishOf s.rxbuf i s).toIdle := by
  rw [h.step_eq, exec_eq_runCommand, runCommand_complete h.phase hlen]

theorem Presents.fetch_eq {i : Instr} {s : State} (h : Presents i s) : s.fetch = .run i := by
  obtain ⟨-, -, hp, hhost⟩ := h
  obtain ⟨ws, hws⟩ : ∃ ws, s.host = encode i :: ws := List.head?_eq_some_iff.mp hhost
  simp [State.fetch, hp, hws, fetchWord_eq_run_iff.mpr (decode_encode i)]

/-- R103: the step that accepts a command with events. -/
theorem Presents.step_accept {i : Instr} {s : State} (h : Presents i s) (hne : s.traceOf i ≠ []) :
    step s = .next (s.accept (encode i)) := by
  have hf := h.fetch_eq
  obtain ⟨hw, hr, hp, -⟩ := h
  simp [step, hw, hr, hf, exec_eq_runCommand, runCommand_idle hp hne]

theorem Presents.running_accept {i : Instr} {s : State} (h : Presents i s) (hret : s.env.returns = none) :
    Running i (s.accept (encode i)) := by
  obtain ⟨hw, hr, -, -⟩ := h
  exact ⟨hw, hr, rfl, decode_encode i, hret⟩

/-- Acceptance and the first events of the trace (R103, R104). -/
theorem Presents.run_emitAll {i : Instr} {s : State} (h : Presents i s) (hret : s.env.returns = none)
    (hi : writesBack i = false) (hne : s.traceOf i ≠ []) {es rest : List Event} (hes : s.traceOf i = es ++ rest) (n : Nat) :
    Host.Core.run core (es.length + n + 1) s =
      Host.Core.run core n ((s.accept (encode i)).emitAll (s.traceOf i) es) := by
  rw [run_succ (h.step_accept hne)]
  exact (h.running_accept hret).run_emitAll hi hes n

/-- The state in which the command `i` accepted in `s` has emitted its whole trace. -/
def State.walked (s : State) (i : Instr) : State := (s.accept (encode i)).emitAll (s.traceOf i) (s.traceOf i)

/-- Acceptance, every event and completion (R103, R104; log 11). -/
theorem Presents.run_complete {i : Instr} {s : State} (h : Presents i s) (hret : s.env.returns = none)
    (hi : writesBack i = false) (hne : s.traceOf i ≠ []) :
    Host.Core.run core ((s.traceOf i).length + 2) s = .next (finishOf (s.walked i).rxbuf i (s.walked i)).toIdle := by
  have hdone : ((s.walked i).traceOf i).length ≤ (s.walked i).seq := by
    simp [State.walked, State.traceOf, length_traceOf s.cfg (State.rxbuf _) s.rxbuf]
  have hcomplete := Running.step_complete ((h.running_accept hret).emitAll (s.traceOf i) (s.traceOf i)) hdone
  rw [h.run_emitAll hret hi hne (List.append_nil _).symm 1]
  exact (run_succ hcomplete).trans (run_zero _)

/-! ## SETDT -/

/-- SETDT's two transactions, delivered one after the other: the target after the first is seen 11 steps after the command
was presented, the target after both when it completes, 16 steps after (R110, R184). -/
theorem run_setdt {s : State} {sec mi h dow dom mo y : Byte} (hpres : Presents (.setdt sec mi h dow dom mo y) s)
    (hnf : NoFailure s) :
    ∃ m t : State, Host.Core.run core 11 s = .next m ∧ Host.Core.run core 16 s = .next t ∧
      m.target = s.target.deliver .rtc (s.cfg.rtcTimeBase :: setdtBurst sec mi h dow dom mo y) ∧
      t.target = m.target.deliver .rtc [s.cfg.rtcTimeBase, setdtSeconds sec] := by
  have hret : s.env.returns = none := by
    obtain ⟨henv, -⟩ := hnf
    rw [henv]
  have hacc : NoFailure (s.accept (encode (.setdt sec mi h dow dom mo y))) := hnf
  have hfirst := hpres.run_emitAll hret rfl nofun (es := writeSeq s.cfg .rtc s.cfg.rtcTimeBase _) rfl 0
  have hall := hpres.run_complete hret rfl nofun
  refine ⟨_, _, hfirst, hall, hacc.emitAll_writeSeq (deviceAt_rtc _) _ _ _, ?_⟩
  have hsecond := (hacc.emitAll (s.traceOf (.setdt sec mi h dow dom mo y))
    (writeSeq s.cfg .rtc s.cfg.rtcTimeBase (setdtBurst sec mi h dow dom mo y))).emitAll_writeSeq (dev := .rtc)
    (deviceAt_rtc _) (s.traceOf (.setdt sec mi h dow dom mo y)) s.cfg.rtcTimeBase [setdtSeconds sec]
  rw [State.emitAll_cfg, ← State.emitAll_append] at hsecond
  exact hsecond

section
variable {s m t : State} {sec mi h dow dom mo y : Byte}

/-- R110: after the first transaction register `k` holds `t0` to `t6`. -/
theorem byteAt_of_setdtBurst (hs : MemoryCanonical s)
    (hm : m.target = s.target.deliver .rtc (s.cfg.rtcTimeBase :: setdtBurst sec mi h dow dom mo y)) {k : Nat} (hk : k < 7) :
    m.byteAt .rtc (s.cfg.rtcTimeBase + BitVec.ofNat 8 k) = (setdtBurst sec mi h dow dom mo y)[k] :=
  byteAt_of_deliver_rtc hs hm (by simp [setdtBurst]) hk

/-- R110: the second transaction leaves the registers after the seconds as they were. -/
theorem byteAt_of_setdtSeconds (ht : t.target = m.target.deliver .rtc [s.cfg.rtcTimeBase, setdtSeconds sec]) {k : Nat}
    (h1 : 1 ≤ k) (hk : k < 7) :
    t.byteAt .rtc (s.cfg.rtcTimeBase + BitVec.ofNat 8 k) = m.byteAt .rtc (s.cfg.rtcTimeBase + BitVec.ofNat 8 k) :=
  byteAt_of_deliver_rtc_outside ht (.inr (by rw [toNat_add_sub_ofNat (by omega)]; exact h1))

end

/-- Settles O37: after the first transaction the registers hold its seven data bytes, and the second touches the seconds
only. -/
theorem setdtLeavesClockAndBatteryEnabled : Obligations.SetdtLeavesClockAndBatteryEnabled := by
  intro s sec mi h dow dom mo y hpres hnf hs
  obtain ⟨m, t, hrun, hrun', hm, ht⟩ := run_setdt hpres hnf
  have hsec : m.byteAt .rtc s.cfg.rtcTimeBase = decToBcd sec &&& 0x7F#8 :=
    byteAt_pointer_of_deliver_rtc hs hm (by simp)
  have htop : (decToBcd sec &&& 0x7F#8).getLsbD 7 = false := by simp
  have hyear : encodeField Const.mYear y = decToBcd y := BitVec.and_allOnes
  have hreg : ∀ {k : Nat} (hk : k < 7), m.byteAt .rtc (s.cfg.rtcTimeBase + BitVec.ofNat 8 k) = _ :=
    fun hk => byteAt_of_setdtBurst hs hm hk
  have hreg' : ∀ {k : Nat}, 1 ≤ k → (hk : k < 7) → t.byteAt .rtc (s.cfg.rtcTimeBase + BitVec.ofNat 8 k) = _ :=
    fun h1 hk => (byteAt_of_setdtSeconds ht h1 hk).trans (hreg hk)
  refine ⟨m, t, hrun, hrun', hsec, hsec ▸ htop, hreg (k := 1) (by decide), hreg (k := 2) (by decide),
    hreg (k := 3) (by decide), hreg (k := 4) (by decide), hreg (k := 5) (by decide),
    (hreg (k := 6) (by decide)).trans hyear,
    byteAt_pointer_of_deliver_rtc (memoryCanonical_of_deliver hs hm) ht (by simp),
    hreg' (k := 1) (by decide) (by decide), hreg' (k := 2) (by decide) (by decide), hreg' (k := 3) (by decide) (by decide),
    hreg' (k := 4) (by decide) (by decide), hreg' (k := 5) (by decide) (by decide),
    (hreg' (k := 6) (by decide) (by decide)).trans hyear, fun a ha => ?_, fun a => ?_⟩
  · exact (byteAt_of_deliver_rtc_outside ht (.inr (Nat.one_le_of_lt ha))).trans
      (byteAt_of_deliver_rtc_outside hm (.inr ha))
  · exact (byteAt_of_deliver_rtc_outside ht (.inl (by decide))).trans (byteAt_of_deliver_rtc_outside hm (.inl (by decide)))

end Sys2Proof.Machine
end

section
/-! The encoding statements (spec 30_encoding.md): decoder and encoder undo each other, the rows of the opcode table and the
words they match, which words are malformed and what the block makes of one, the worked encodings, the write masks. -/

namespace Sys2Proof

open Machine
open Laws.OpcodeField (opcodeOf)

/-! ## The fields as numbers -/

theorem toNat_opField (w : CmdWord) : (opField w).toNat = w.toNat / 2 ^ 60 := by
  simp only [opField, BitVec.extractLsb'_toNat, Nat.shiftRight_eq_div_pow]
  omega

theorem toNat_zField (w : CmdWord) : (zField w).toNat = w.toNat / 2 ^ 56 % 16 := by
  simp only [zField, BitVec.extractLsb'_toNat, Nat.shiftRight_eq_div_pow, Nat.reducePow]

theorem toNat_operandByte (w : CmdWord) (j : Nat) : (operandByte w j).toNat = w.toNat / 2 ^ (8 * j) % 256 := by
  simp only [operandByte, BitVec.extractLsb'_toNat, Nat.shiftRight_eq_div_pow, Nat.reducePow]

theorem zField_eq_zero_iff (w : CmdWord) : zField w = 0#4 ↔ w.toNat / 2 ^ 56 % 16 = 0 := by
  rw [← toNat_zField]
  exact BitVec.toNat_eq

theorem operandByte_eq_zero_iff (w : CmdWord) (j : Nat) : operandByte w j = 0#8 ↔ w.toNat / 2 ^ (8 * j) % 256 = 0 := by
  rw [← toNat_operandByte]
  exact BitVec.toNat_eq

theorem unusedZero_iff (w : CmdWord) (n : Nat) :
    unusedZero w n = true ↔ ∀ j, n ≤ j → j < 7 → operandByte w j = 0#8 := by
  simp only [unusedZero, List.all_eq_true, List.mem_range, Bool.or_eq_true, decide_eq_true_eq, beq_iff_eq,
    or_iff_not_imp_left, not_lt]
  exact forall_congr' fun j => forall_comm

/-- R60: a word whose `Z` is zero is laid out from its own fields. -/
theorem layout_fields {w : CmdWord} (hz : zField w = 0#4) :
    layout (opField w) (operandByte w 6) (operandByte w 5) (operandByte w 4) (operandByte w 3) (operandByte w 2)
      (operandByte w 1) (operandByte w 0) = w := by
  rw [zField_eq_zero_iff] at hz
  apply BitVec.eq_of_toNat_eq
  simp only [layout_toNat, toNat_opField, toNat_operandByte]
  omega

/-! ## The words of a command's row -/

/-- R64: the word has the opcode of `i`, `Z` zero, and zeros in the operand bytes that `i` does not use. -/
def OfRow (i : Instr) (w : CmdWord) : Prop :=
  opField w = opcodeOf i ∧ zField w = 0#4 ∧ unusedZero w (operandCount i) = true

theorem checkUnused_eq_ok_iff {w : CmdWord} {n : Nat} {i j : Instr} :
    checkUnused w n i = .ok j ↔ unusedZero w n = true ∧ i = j := by
  simp only [checkUnused]
  split <;> simp [*]

/-- R61, R63: what decoding has checked of a word that it accepts. -/
theorem ofRow_of_decode {w : CmdWord} {i : Instr} (h : decode w = .ok i) : OfRow i w := by
  unfold decode at h
  split at h
  case isFalse => cases h
  case isTrue hz =>
    unfold decodeOpcode at h
    split at h
    case h_13 => cases h
    all_goals
      obtain ⟨hu, rfl⟩ := checkUnused_eq_ok_iff.mp h
      exact ⟨BitVec.eq_of_toNat_eq ‹_›, hz, hu⟩

/-- The command with `i`'s mnemonic whose operands are the operand bytes of `w` (R61, R62). -/
def Instr.readFrom (w : CmdWord) : Instr → Instr
  | .dec2bcd _ => .dec2bcd (operandByte w 0)
  | .bcd2dec _ => .bcd2dec (operandByte w 0)
  | .setdt _ _ _ _ _ _ _ => .setdt (operandByte w 0) (operandByte w 1) (operandByte w 2) (operandByte w 3)
      (operandByte w 4) (operandByte w 5) (operandByte w 6)
  | .getdt => .getdt
  | .clken => .clken
  | .clkdis => .clkdis
  | .baten => .baten
  | .sramwr _ _ => .sramwr (operandByte w 0) (operandByte w 1)
  | .sramrd _ => .sramrd (operandByte w 0)
  | .idunlock => .idunlock
  | .macwr _ _ _ _ _ _ => .macwr (operandByte w 0) (operandByte w 1) (operandByte w 2) (operandByte w 3)
      (operandByte w 4) (operandByte w 5)
  | .macrd => .macrd

/-- Operand byte `j` of a word whose command uses the lowest `n` of them. -/
def usedByte (w : CmdWord) (n j : Nat) : Byte := if j < n then operandByte w j else 0#8

theorem usedByte_eq_operandByte {w : CmdWord} {n j : Nat} (hu : unusedZero w n = true) (hj : j < 7) :
    usedByte w n j = operandByte w j := by
  unfold usedByte
  split
  · rfl
  · exact ((unusedZero_iff w n).mp hu j (by omega) hj).symm

/-- R61: each command's word holds its operands in the lowest bytes. -/
theorem encode_readFrom_eq_layout (i : Instr) (w : CmdWord) :
    encode (i.readFrom w) = layout (opcodeOf i) (usedByte w (operandCount i) 6) (usedByte w (operandCount i) 5)
      (usedByte w (operandCount i) 4) (usedByte w (operandCount i) 3) (usedByte w (operandCount i) 2)
      (usedByte w (operandCount i) 1) (usedByte w (operandCount i) 0) := by
  cases i <;> rfl

/-- A word of `i`'s row is the word of the command read from it. -/
theorem encode_readFrom {i : Instr} {w : CmdWord} (h : OfRow i w) : encode (i.readFrom w) = w := by
  obtain ⟨hop, hz, hu⟩ := h
  have hbyte : ∀ {j}, j < 7 → usedByte w (operandCount i) j = operandByte w j := usedByte_eq_operandByte hu
  rw [encode_readFrom_eq_layout, ← hop, hbyte (by decide), hbyte (by decide), hbyte (by decide), hbyte (by decide),
    hbyte (by decide), hbyte (by decide), hbyte (by decide), layout_fields hz]

theorem decode_of_ofRow {i : Instr} {w : CmdWord} (h : OfRow i w) : decode w = .ok (i.readFrom w) := by
  rw [← decode_encode (i.readFrom w), encode_readFrom h]

/-- R60 to R63: decoder and encoder undo each other. -/
theorem decode_eq_ok_iff {w : CmdWord} {i : Instr} : decode w = .ok i ↔ encode i = w := by
  constructor
  · intro h
    have hrow := ofRow_of_decode h
    have hi : i.readFrom w = i := by simpa [h] using (decode_of_ofRow hrow).symm
    rw [← hi, encode_readFrom hrow]
  · rintro rfl
    exact decode_encode i

/-- Settles O1: `decode_encode`, by the fields of a laid-out word. -/
theorem decodeOfEncodeIsTheCommand : Obligations.DecodeOfEncodeIsTheCommand := decode_encode

/-- Settles O2: a word that decodes is of its command's row, and such a word is laid out from the operands read from it. -/
theorem encodeOfDecodeIsTheWord : Obligations.EncodeOfDecodeIsTheWord := fun _ _ => decode_eq_ok_iff.mp

/-! ## Malformed words -/

theorem exists_decode_error_iff (w : CmdWord) : (∃ e, decode w = .error e) ↔ ∀ i, ¬ OfRow i w := by
  constructor
  · rintro ⟨e, he⟩ i hi
    simp [decode_of_ofRow hi] at he
  · intro h
    cases hd : decode w with
    | ok i => exact absurd (ofRow_of_decode hd) (h i)
    | error e => exact ⟨e, rfl⟩

theorem usedBytes_opcodeOf (i : Instr) : usedBytes (opcodeOf i).toNat = some (operandCount i) := by
  cases i <;> rfl

/-- A command for each opcode, with all operands zero. -/
def zeroCommands : List Instr :=
  [.dec2bcd 0, .bcd2dec 0, .setdt 0 0 0 0 0 0 0, .getdt, .clken, .clkdis, .baten, .sramwr 0 0, .sramrd 0, .idunlock,
    .macwr 0 0 0 0 0 0, .macrd]

/-- R61, R63: an opcode that is not reserved is the opcode of a command. -/
theorem exists_opcodeOf : ∀ op : BitVec 4, usedBytes op.toNat ≠ none → ∃ i ∈ zeroCommands, opcodeOf i = op := by
  decide

theorem malformedWord_of_reserved {w : CmdWord} (h : usedBytes (opField w).toNat = none) : MalformedWord w := by
  rw [toNat_opField] at h
  rw [MalformedWord, h]
  trivial

theorem not_malformedWord_iff {w : CmdWord} {n : Nat} (h : usedBytes (opField w).toNat = some n) :
    ¬ MalformedWord w ↔ zField w = 0#4 ∧ unusedZero w n = true := by
  rw [toNat_opField] at h
  simp only [MalformedWord, h, zField_eq_zero_iff, unusedZero_iff, operandByte_eq_zero_iff]
  push Not
  rfl

/-- R63 in the terms of the rows: a word is malformed when it is no command's. -/
theorem malformedWord_iff (w : CmdWord) : MalformedWord w ↔ ∀ i, ¬ OfRow i w := by
  constructor
  · rintro hm i ⟨hop, hrest⟩
    have hused : usedBytes (opField w).toNat = some (operandCount i) := by rw [hop, usedBytes_opcodeOf]
    exact (not_malformedWord_iff hused).mpr hrest hm
  · intro h
    by_contra hm
    obtain ⟨i, -, hop⟩ := exists_opcodeOf _ (mt malformedWord_of_reserved hm)
    have hused : usedBytes (opField w).toNat = some (operandCount i) := by rw [← hop, usedBytes_opcodeOf]
    exact h i ⟨hop.symm, (not_malformedWord_iff hused).mp hm⟩

/-- Settles O4: both sides say that the word is of no command's row. -/
theorem malformedWordsAreExactlyTheRejectedOnes : Obligations.MalformedWordsAreExactlyTheRejectedOnes :=
  fun w => (exists_decode_error_iff w).trans (malformedWord_iff w).symm

/-! ## The opcode table -/

/-- The row of a command: its mask leaves the used operand bytes free, its pattern is the opcode (R64). -/
def rowOf (i : Instr) : TableRow :=
  ⟨mnemonicOf i, BitVec.ofNat 64 (2 ^ 64 - 2 ^ (8 * operandCount i)), opcodeOf i ++ 0#60⟩

theorem opcodeTable_eq : opcodeTable = zeroCommands.map rowOf := rfl

theorem rowOf_readFrom (i : Instr) (w : CmdWord) : rowOf (i.readFrom w) = rowOf i := by
  cases i <;> rfl

/-- The commands stand in the order of their opcodes, which start at 1 (R61). -/
theorem getElem?_zeroCommands (i : Instr) : zeroCommands[(opcodeOf i).toNat - 1]? = some (i.readFrom 0#64) := by
  cases i <;> rfl

theorem getElem?_opcodeTable (i : Instr) : opcodeTable[(opcodeOf i).toNat - 1]? = some (rowOf i) := by
  rw [opcodeTable_eq, List.getElem?_map, getElem?_zeroCommands, Option.map_some, rowOf_readFrom]

theorem rowOf_mem (i : Instr) : rowOf i ∈ opcodeTable := List.mem_of_getElem? (getElem?_opcodeTable i)

theorem rowOf_eq_of_opcodeOf_eq {i j : Instr} (h : opcodeOf i = opcodeOf j) : rowOf i = rowOf j := by
  have hj := getElem?_opcodeTable j
  rw [← h, getElem?_opcodeTable i] at hj
  exact Option.some.inj hj

theorem operandCount_le (i : Instr) : operandCount i ≤ 7 := by
  cases i <;> simp [operandCount]

theorem mask_rowOf (i : Instr) : (rowOf i).mask = BitVec.allOnes 64 <<< (8 * operandCount i) := by
  have h : ∀ n ≤ 7, BitVec.ofNat 64 (2 ^ 64 - 2 ^ (8 * n)) = BitVec.allOnes 64 <<< (8 * n) := by decide
  exact h _ (operandCount_le i)

theorem unusedZero_iff_lt (w : CmdWord) {n : Nat} (hn : n ≤ 7) :
    unusedZero w n = true ↔ w.toNat % 2 ^ 56 < 2 ^ (8 * n) := by
  simp only [unusedZero, List.all_eq_true, List.mem_range, Nat.forall_lt_succ_right, Nat.not_lt_zero, false_imp_iff,
    implies_true, true_and, Bool.or_eq_true, decide_eq_true_eq, beq_iff_eq, operandByte_eq_zero_iff]
  interval_cases n <;> omega

/-- Bits `8*n` and up of a word are an opcode and zeros exactly when `Z` and the operand bytes from `n` on are zero. -/
theorem and_mask_eq_iff (w : CmdWord) (op : BitVec 4) {n : Nat} (hn : n ≤ 7) :
    w &&& (BitVec.allOnes 64 <<< (8 * n)) = op ++ 0#60 ↔ opField w = op ∧ zField w = 0#4 ∧ unusedZero w n = true := by
  have hw := w.isLt
  rw [← BitVec.shiftLeft_ushiftRight, unusedZero_iff_lt w hn, zField_eq_zero_iff]
  simp only [BitVec.toNat_eq, toNat_opField, toNat_append_add, BitVec.toNat_shiftLeft, BitVec.toNat_ushiftRight,
    Nat.shiftRight_eq_div_pow, Nat.shiftLeft_eq, BitVec.toNat_ofNat]
  interval_cases n <;> omega

/-- R64: a word matches a command's row when it has that command's opcode, `Z` zero and its unused operand bytes zero. -/
theorem fits_rowOf_iff (i : Instr) (w : CmdWord) : (rowOf i).fits w = true ↔ OfRow i w := by
  rw [TableRow.fits, beq_iff_eq, mask_rowOf]
  exact and_mask_eq_iff w (opcodeOf i) (operandCount_le i)

theorem exists_ofRow_of_fits {r : TableRow} (hr : r ∈ opcodeTable) {w : CmdWord} (h : r.fits w = true) :
    ∃ i, r = rowOf i ∧ OfRow i w := by
  rw [opcodeTable_eq] at hr
  obtain ⟨i, -, rfl⟩ := List.mem_map.mp hr
  exact ⟨i, rfl, (fits_rowOf_iff i w).mp h⟩

/-- Settles O3: the row of the command a word decodes to fits, and every row that fits has the word's opcode; a word that
is rejected is of no row. -/
theorem decodingMatchesExactlyOneTableRow : Obligations.DecodingMatchesExactlyOneTableRow := by
  refine ⟨fun w => ?_, fun i => ⟨rowOf i, rowOf_mem i, rfl, rfl⟩⟩
  cases hd : decode w with
  | ok i =>
    have hrow := ofRow_of_decode hd
    have hop : opField w = opcodeOf i := hrow.left
    refine .inl ⟨rowOf i, rowOf_mem i, (fits_rowOf_iff i w).mpr hrow, fun r hr hfits => ?_, i, rfl, rfl⟩
    obtain ⟨j, rfl, hopj, -⟩ := exists_ofRow_of_fits hr hfits
    exact rowOf_eq_of_opcodeOf_eq (hopj.symm.trans hop)
  | error e =>
    have hnone : ∀ i, ¬ OfRow i w := (exists_decode_error_iff w).mp ⟨e, hd⟩
    refine .inr ⟨fun r hr => Bool.eq_false_iff.mpr fun hfits => ?_, (malformedWord_iff w).mpr hnone, e, rfl⟩
    obtain ⟨i, -, hi⟩ := exists_ofRow_of_fits hr hfits
    exact hnone i hi

/-! ## The worked encodings -/

/-- Settles O5: the encoder computes the six words, and each decodes to the command it is the word of. -/
theorem workedEncodingsAgree : Obligations.WorkedEncodingsAgree := by
  simp only [Obligations.WorkedEncodingsAgree, decode_eq_ok_iff]
  decide

/-! ## The write masks -/

theorem toNat_decToBcd {v : Byte} (h : v.toNat ≤ 99) : (decToBcd v).toNat = v.toNat / 10 * 16 + v.toNat % 10 := by
  simp only [decToBcd, trunc8, BitVec.toNat_ofNat]
  omega

/-- A mask of the low `k` bits removes nothing from a BCD byte that fits in them. -/
theorem encodeField_eq_decToBcd {mask v : Byte} {k : Nat} (hmask : mask.toNat = 2 ^ k - 1)
    (h : (decToBcd v).toNat < 2 ^ k) : encodeField mask v = decToBcd v := by
  apply BitVec.eq_of_toNat_eq
  rw [encodeField, BitVec.toNat_and, hmask, Nat.and_two_pow_sub_one_of_lt_two_pow h]

/-- Settles O10: every mask covers the low bits, and the largest legal value's BCD byte fits in them. -/
theorem writeMasksHoldEveryLegalValue : Obligations.WriteMasksHoldEveryLegalValue := by
  refine ⟨fun v h => ⟨encodeField_eq_decToBcd (k := 7) rfl ?_, encodeField_eq_decToBcd (k := 7) rfl ?_⟩,
    fun v h => encodeField_eq_decToBcd (k := 6) rfl ?_, fun v _ h => encodeField_eq_decToBcd (k := 3) rfl ?_,
    fun v _ h => encodeField_eq_decToBcd (k := 6) rfl ?_, fun v _ h => encodeField_eq_decToBcd (k := 5) rfl ?_,
    fun v h => encodeField_eq_decToBcd (k := 8) rfl ?_⟩
  all_goals
    rw [toNat_decToBcd (by omega)]
    omega

namespace Machine

/-! ## A malformed word presented -/

theorem State.fetch_of_idle {s : State} {w : CmdWord} (hp : s.phase = .idle) (hh : s.host.head? = some w) :
    s.fetch = fetchWord w := by
  obtain ⟨ws, hws⟩ := List.head?_eq_some_iff.mp hh
  simp [State.fetch, hp, hws]

theorem fetchWord_of_malformed {w : CmdWord} (h : MalformedWord w) : fetchWord w = .malformed w := by
  obtain ⟨e, he⟩ := (malformedWordsAreExactlyTheRejectedOnes w).mpr h
  simp [fetchWord, he]

/-- R63: a malformed word presented is turned away in one step. -/
theorem step_of_malformed {s : State} {w : CmdWord} (hw : s.cfg.wf = true) (hr : s.resetIn = false)
    (hf : s.fetch = .malformed w) : step s = .next (s.acceptMalformed w) := by
  simp [step, hw, hr, hf]

/-- Settles O50: the step turns the word away, and that changes the fields R63 names and no other. -/
theorem aMalformedWordOnlySetsTheFlag : Obligations.AMalformedWordOnlySetsTheFlag := by
  intro s w hw hr hp hh hm
  have hf : s.fetch = .malformed w := (State.fetch_of_idle hp hh).trans (fetchWord_of_malformed hm)
  exact ⟨s.acceptMalformed w, step_of_malformed hw hr hf, by simp⟩

end Machine

end Sys2Proof
end

section
/-! The BCD codec's statements (spec 40_bcd_codec.md): what its two commands write, the two functions as numbers, the round
trips between them, and what decode followed by re-encode makes of a byte. -/

namespace Sys2Proof.Machine

/-! ## BCD2DEC as a number -/

theorem toNat_bcdToDec (b : Byte) : (bcdToDec b).toNat = b.toNat / 16 * 10 + b.toNat % 16 := by
  simp only [bcdToDec, trunc8, BitVec.toNat_ofNat]
  omega

theorem toNat_bcdToDec_le (b : Byte) : (bcdToDec b).toNat ≤ 165 := by
  rw [toNat_bcdToDec]
  omega

/-! ## The commands -/

/-- R103: accepted in `IDLE`, a command without events whose completion writes `r` changes six fields and no other. -/
theorem runCommand_nil_finishResult {s : State} (hp : s.phase = .idle) (w : CmdWord) (r : Buf) :
    runCommand w [] (finishResult r) s = .next { s with
      cmd := w, seq := 0, host := s.host.tail, status := ⟨false, false⟩, res := r, resWritten := true } := by
  have hidle : { s with phase := .idle } = s := by rw [← hp]
  rw [runCommand_idle_empty hp rfl]
  conv_rhs => rw [← hidle]
  rfl

/-- Settles O6: the command has no event, and its completion writes the formula's byte. -/
theorem dec2bcdWritesTheBcdByte : Obligations.Dec2bcdWritesTheBcdByte :=
  fun v _ hp => runCommand_nil_finishResult hp (encode (.dec2bcd v)) (Buf.single (decToBcd v))

/-- Settles O7: the command has no event, and its completion writes `bcdToDec v`, which is never truncated. -/
theorem bcd2decWritesTheDecimalValue : Obligations.Bcd2decWritesTheDecimalValue :=
  fun v _ hp => ⟨bcdToDec v, toNat_bcdToDec v, toNat_bcdToDec_le v,
    runCommand_nil_finishResult hp (encode (.bcd2dec v)) (Buf.single (bcdToDec v))⟩

/-! ## The round trips -/

theorem validBcd_iff (b : Byte) : validBcd b = true ↔ b.toNat / 16 ≤ 9 ∧ b.toNat % 16 ≤ 9 := by
  simp [validBcd]

theorem validBcd_decToBcd {v : Byte} (h : v.toNat ≤ 99) : validBcd (decToBcd v) = true := by
  rw [validBcd_iff, toNat_decToBcd h]
  omega

theorem toNat_bcdToDec_le_of_validBcd {b : Byte} (h : validBcd b = true) : (bcdToDec b).toNat ≤ 99 := by
  rw [validBcd_iff] at h
  rw [toNat_bcdToDec]
  omega

/-- R92, the first law. -/
theorem bcdToDec_decToBcd {v : Byte} (h : v.toNat ≤ 99) : bcdToDec (decToBcd v) = v := by
  apply BitVec.eq_of_toNat_eq
  rw [toNat_bcdToDec, toNat_decToBcd h]
  omega

/-- R92, the second law. -/
theorem decToBcd_bcdToDec {b : Byte} (h : validBcd b = true) : decToBcd (bcdToDec b) = b := by
  apply BitVec.eq_of_toNat_eq
  rw [toNat_decToBcd (toNat_bcdToDec_le_of_validBcd h), toNat_bcdToDec]
  rw [validBcd_iff] at h
  omega

/-- Settles O8: the two laws make `decToBcd` one-to-one from 0-99 onto the valid BCD bytes, with inverse `bcdToDec`. -/
theorem bcdRoundTripLaws : Obligations.BcdRoundTripLaws := by
  have hcount : ((List.range 256).filter fun n => validBcd (BitVec.ofNat 8 n)).length = 100 := rfl
  refine ⟨fun _ => bcdToDec_decToBcd, fun _ => decToBcd_bcdToDec, hcount, fun _ => validBcd_decToBcd,
    fun v v' hv hv' heq => ?_, fun b hb => ⟨bcdToDec b, toNat_bcdToDec_le_of_validBcd hb, decToBcd_bcdToDec hb⟩,
    by decide⟩
  rw [← bcdToDec_decToBcd hv, heq, bcdToDec_decToBcd hv']

/-! ## Decode and re-encode -/

/-- R97: up to `0x7F` a low nibble of 10 or more carries into the tens. -/
theorem toNat_decToBcd_bcdToDec {x : Byte} (h : x.toNat ≤ 0x7F) :
    (decToBcd (bcdToDec x)).toNat = (x.toNat / 16 + x.toNat % 16 / 10) * 16 + x.toNat % 16 % 10 := by
  have hdec := toNat_bcdToDec x
  rw [toNat_decToBcd (by omega), hdec]
  omega

theorem getLsbD_seven_of_le {b : Byte} (h : 0x80 ≤ b.toNat) : b.getLsbD 7 = true :=
  (BitVec.msb_eq_true_iff_two_mul_ge.mpr (by omega) : b.msb = true)

/-- Settles O9: valid bytes return by the second law of R92, every other byte up to `0x7F` by the carry. -/
theorem normalisingAByte : Obligations.NormalisingAByte := by
  refine ⟨fun _ _ => decToBcd_bcdToDec, fun x hx hlow => ?_, by decide, by decide, by decide, fun x hlo hhi => ?_,
    fun x hx => decToBcd_bcdToDec ((validBcd_iff x).mpr (by omega))⟩
  · rw [toNat_decToBcd_bcdToDec hx]
    omega
  · have hdec := toNat_bcdToDec x
    have hnorm := toNat_decToBcd_bcdToDec hhi
    exact ⟨by omega, by omega, by omega, by omega, getLsbD_seven_of_le (by omega)⟩

end Sys2Proof.Machine
end

section
/-! The transaction engine's statements (spec 41_transaction_engine.md): which command a step runs, acceptance, the event a
step emits and the trace lengths, and that every command the host presents completes having emitted its trace. -/

namespace Sys2Proof.Machine

/-! ## Which command a step runs -/

/-- R43: nothing is added around the command's own step. -/
theorem step_of_fetch_run {s : State} {i : Instr} (hw : s.cfg.wf = true) (hr : s.resetIn = false)
    (hf : s.fetch = .run i) : step s = exec i s := by
  simp [step, hw, hr, hf]

/-- Settles O23, by what the next step fetches: the latched word in `BUSY`, the presented one in `IDLE`, or nothing. -/
theorem stepRunsTheDecodedCommand : Obligations.StepRunsTheDecodedCommand := by
  refine ⟨fun s i hw hr hp hd => ?_, fun s w i hw hr hp hh hd => ?_, fun s => step_of_wait⟩
  · exact step_of_fetch_run hw hr ((State.fetch_of_busy hp).trans (fetchWord_eq_run_iff.mpr hd))
  · exact step_of_fetch_run hw hr ((State.fetch_of_idle hp hh).trans (fetchWord_eq_run_iff.mpr hd))

/-! ## Acceptance -/

/-- R103: the step that accepts a command without events completes it. -/
theorem Presents.step_complete {i : Instr} {s : State} (h : Presents i s) (ht : s.traceOf i = []) :
    step s = .next (finishOf s.rxbuf i (s.accept (encode i))).toIdle := by
  have hf := h.fetch_eq
  obtain ⟨hw, hr, hp, -⟩ := h
  rw [step_of_fetch_run hw hr hf, exec_eq_runCommand, runCommand_idle_empty hp ht]

/-- R103, D21: a sequenced busy block neither latches a word nor takes one from the host. -/
theorem Sequenced.step_keeps_cmd_host {s t : State} (hs : Sequenced s) (hp : s.phase = .busy) (hr : s.resetIn = false)
    (h : step s = .next t) : t.cmd = s.cmd ∧ t.host = s.host := by
  obtain ⟨-, ⟨hr', -⟩ | ⟨-, -, rfl⟩ | ⟨w, -, hf, -⟩ | ⟨i, -, -, hi⟩⟩ := step_cases h
  · simp [hr] at hr'
  · exact ⟨rfl, rfl⟩
  · simp [hs.idle_of_fetch_malformed hf] at hp
  · exact exec_keeps_cmd_host_of_busy hi hp

/-- Settles O22: a word that decodes is the word of its command, so the host presents that command; the step accepts it, or
also completes it. -/
theorem acceptanceLatchesTheCommandWord : Obligations.AcceptanceLatchesTheCommandWord := by
  refine ⟨fun s w i hw hr hp hh hd => ?_, fun s t hs hp hr h => hs.step_keeps_cmd_host hp hr h⟩
  obtain rfl : encode i = w := decode_eq_ok_iff.mp hd
  have hpres : Presents i s := ⟨hw, hr, hp, hh⟩
  exact ⟨hpres.step_accept, fun ht => ⟨_, hpres.step_complete ht, by simp [finishOf_frame]⟩⟩

/-! ## One event a step -/

/-- R12, R104: an event of a busy block changes nothing the host sees. -/
theorem emitsEvent_emit {s : State} (hp : s.phase = .busy) (tr : List Event) (e : Event) :
    EmitsEvent e s (s.emit tr e) :=
  ⟨rfl, rfl, hp, rfl, rfl, rfl, rfl, rfl, rfl, rfl⟩

/-- R13: a `RECV` stores the byte received after the bytes received before it. -/
theorem State.rxbuf_emit (s : State) (tr : List Event) (e : Event) :
    (s.emit tr e).rxbuf =
      if e = .recv then s.rxbuf.set ((tr.take s.seq).count .recv) s.received else s.rxbuf := by
  by_cases hr : e = .recv
  · subst hr
    rw [if_pos rfl]
    rfl
  · rw [if_neg hr, s.rxbuf_emit_of_ne_recv tr hr]

theorem inSramWindow_iff (loc : Byte) : inSramWindow loc = true ↔ 0x20 ≤ loc.toNat ∧ loc.toNat ≤ 0x5F := by
  simp [inSramWindow, Const.sramLo, Const.sramHi]

/-- R131: four events inside the window, none outside. -/
theorem length_sramwrTrace (c : Config) (loc data : Byte) :
    (sramwrTrace c loc data).length = if 0x20 ≤ loc.toNat ∧ loc.toNat ≤ 0x5F then 4 else 0 := by
  simp only [sramwrTrace, inSramWindow_iff, apply_ite List.length]
  rfl

/-- R132: five events inside the window, none outside. -/
theorem length_sramrdTrace (c : Config) (loc : Byte) :
    (sramrdTrace c loc).length = if 0x20 ≤ loc.toNat ∧ loc.toNat ≤ 0x5F then 5 else 0 := by
  simp only [sramrdTrace, inSramWindow_iff, apply_ite List.length]
  rfl

theorem writesBack_iff (i : Instr) : writesBack i = true ↔ i = .clken ∨ i = .clkdis ∨ i = .baten := by
  cases i <;> simp [writesBack]

/-- Settles O24: the engine's step on an event and at the trace's end, the lengths of the traces, and what of a trace depends
on the bytes received. -/
theorem executionFollowsTheTrace : Obligations.ExecutionFollowsTheTrace := by
  refine ⟨fun i s e hp hret he => ?_, fun i s hp hlen => ?_, fun c rx v d a1 a2 a3 a4 a5 a6 => ?_,
    fun c rx rx' i k => ⟨length_traceOf c rx rx' i, fun hk => ?_⟩⟩
  · exact ⟨_, (exec_eq_runCommand i s).trans (runCommand_event hp he hret), emitsEvent_emit hp _ e, s.rxbuf_emit _ e⟩
  · refine ⟨_, (exec_eq_runCommand i s).trans (runCommand_complete hp hlen.ge), ?_⟩
    simp +contextual [finishOf_frame]
  · exact ⟨rfl, rfl, rfl, rfl, rfl, rfl, rfl, length_sramwrTrace c v d, length_sramrdTrace c v, rfl, rfl, rfl⟩
  · exact getElem?_traceOf c rx rx' (by rwa [writesBack_iff])

/-! ## From acceptance to completion -/

/-- `u` is on the way through command `i` accepted in `s`: it has emitted the first `SEQ` events of the trace, as the bytes
received so far make it, and has not yet touched `RES`. -/
structure Underway (i : Instr) (s u : State) : Prop extends Running i u where
  cfg : u.cfg = s.cfg
  host : u.host = s.host.tail
  res : u.res = s.res
  events : u.events = s.events ++ (u.traceOf i).take u.seq

theorem Presents.underway_accept {i : Instr} {s : State} (h : Presents i s) (hret : s.env.returns = none) :
    Underway i s (s.accept (encode i)) :=
  ⟨h.running_accept hret, rfl, rfl, rfl, by simp⟩

/-- R104: the next event of the trace; the byte it may receive changes no event up to it. -/
theorem Underway.emit {i : Instr} {s u : State} {e : Event} (h : Underway i s u)
    (he : (u.traceOf i)[u.seq]? = some e) : Underway i s (u.emit (u.traceOf i) e) where
  toRunning := h.toRunning.emit _ e
  cfg := h.cfg
  host := h.host
  res := h.res
  events := by
    rw [State.emit_events, State.emit_seq, traceOf_emit_take _ he, h.events, List.append_assoc, List.take_add_one, he,
      Option.toList_some]

theorem Running.step_event {i : Instr} {u : State} {e : Event} (h : Running i u)
    (he : (u.traceOf i)[u.seq]? = some e) : step u = .next (u.emit (u.traceOf i) e) := by
  rw [h.step_eq, exec_eq_runCommand, runCommand_event h.phase he (by simp [h.returns])]

/-- R104: with `n` events to go, `n` steps emit them and one more completes the command. -/
theorem Underway.run_to_completion {i : Instr} {s u : State} (h : Underway i s u) {n : Nat}
    (hn : u.seq + n = (u.traceOf i).length) :
    ∃ v, Underway i s v ∧ v.seq = (v.traceOf i).length ∧
      Host.Core.run core (n + 1) u = .next (finishOf v.rxbuf i v).toIdle := by
  induction n generalizing u with
  | zero => exact ⟨u, h, hn, (run_succ (h.step_complete hn.ge)).trans (run_zero _)⟩
  | succ n ih =>
    have he := List.getElem?_eq_getElem (show u.seq < (u.traceOf i).length by omega)
    have hlen := length_traceOf u.cfg (u.emit (u.traceOf i) (u.traceOf i)[u.seq]).rxbuf u.rxbuf i
    rw [run_succ (h.step_event he)]
    exact ih (h.emit he) ((Nat.add_right_comm ..).trans (hn.trans hlen.symm))

/-- R103, R104: a command presented to an idle block is completed `stepCount` steps on (log 11). -/
theorem Presents.run_to_completion {i : Instr} {s : State} (h : Presents i s) (hret : s.env.returns = none) :
    ∃ v, Underway i s v ∧ v.seq = (v.traceOf i).length ∧
      Host.Core.run core (stepCount (s.traceOf i)) s = .next (finishOf v.rxbuf i v).toIdle := by
  have hacc := h.underway_accept hret
  by_cases ht : s.traceOf i = []
  · have hlen : (s.traceOf i).length = 0 := List.length_eq_zero_iff.mpr ht
    have hone : stepCount (s.traceOf i) = 1 := by simp [stepCount, ht]
    exact ⟨_, hacc, hlen.symm, hone ▸ (run_succ (h.step_complete ht)).trans (run_zero _)⟩
  · have hcount : stepCount (s.traceOf i) = (s.traceOf i).length + 1 + 1 := by simp [stepCount, ht]
    rw [hcount, run_succ (h.step_accept ht)]
    exact hacc.run_to_completion (Nat.zero_add _)

/-- Settles O26: at its last event the command has emitted its whole trace, and completion touches only `PHASE`, the flags
and, where there is a result, `RES`. -/
theorem everyCommandRunsToCompletion : Obligations.EveryCommandRunsToCompletion := by
  intro i s h hret
  obtain ⟨v, hv, hend, hrun⟩ := h.run_to_completion hret
  have hevents : v.events = s.events ++ v.traceOf i := by rw [hv.events, hend, List.take_length]
  refine ⟨_, hrun, rfl, ?_⟩
  simp +contextual [State.traceOf, finishOf_frame, hevents, hv.host, hv.res, hv.cfg]

end Sys2Proof.Machine
end

section
/-! The time field mapper's statements (spec 42_time_field_mapper.md), steps: the bytes SETDT, CLKEN, CLKDIS and BATEN write,
and the trace and the result of each of the five commands. -/

namespace Sys2Proof.Machine

/-! ## The bytes written back -/

/-- Bits set outside a mask are not seen through it. -/
theorem or_and_of_disjoint {a mask : Byte} (x : Byte) (h : a &&& mask = 0#8) : (x ||| a) &&& mask = x &&& mask := by
  rw [BitVec.and_or_distrib_right, h, BitVec.or_zero]

/-- R112: CLKEN leaves the clock-enable bit set, whatever it read. -/
theorem getLsbD_clkenByte (r : Byte) : (clkenByte r).getLsbD 7 = true := by
  simp [clkenByte, Const.clkEnBit]

/-- R113, D8: CLKDIS leaves the clock-enable bit clear, whatever it read. -/
theorem getLsbD_clkdisByte (r : Byte) : (clkdisByte r).getLsbD 7 = false := by
  simp [clkdisByte]

/-- R114: BATEN leaves the battery-enable bit set, whatever it read. -/
theorem getLsbD_batenByte (r : Byte) : (batenByte r).getLsbD 3 = true := by
  simp [batenByte, Const.batEnBit]

/-- R110: SETDT's second transaction sets the clock-enable bit. -/
theorem getLsbD_setdtSeconds (v : Byte) : (setdtSeconds v).getLsbD 7 = true := by
  simp [setdtSeconds, Const.clkEnBit]

theorem decToBcd_decodeField {mask r : Byte} (h : validBcd (r &&& mask) = true) :
    decToBcd (decodeField mask r) = r &&& mask :=
  decToBcd_bcdToDec h

theorem clkenByte_of_validBcd {r : Byte} (h : validBcd (r &&& 0x7F#8) = true) :
    clkenByte r = (r &&& 0x7F#8) ||| 0x80#8 :=
  congrArg (· ||| 0x80#8) (decToBcd_decodeField h)

theorem clkdisByte_of_validBcd {r : Byte} (h : validBcd (r &&& 0x7F#8) = true) : clkdisByte r = r &&& 0x7F#8 := by
  rw [clkdisByte, Const.mSec, decToBcd_decodeField h, BitVec.and_assoc, BitVec.and_self]

theorem toNat_and_seven_le (r : Byte) : (r &&& 0x07#8).toNat ≤ 7 := by
  rw [BitVec.toNat_and]
  exact Nat.and_le_right

/-- R97, R114: the low three bits of every byte are valid BCD, so BATEN keeps them. -/
theorem batenByte_eq (r : Byte) : batenByte r = (r &&& 0x07#8) ||| 0x08#8 := by
  have hvalid : validBcd (r &&& 0x07#8) = true := by
    have := toNat_and_seven_le r
    rw [validBcd_iff]
    omega
  exact congrArg (· ||| 0x08#8) (decToBcd_decodeField hvalid)

/-- R110: the two seconds bytes of SETDT differ in bit 7 only. -/
theorem setdtSeconds_and (v : Byte) : setdtSeconds v &&& 0x7F#8 = encodeField Const.mSec v :=
  or_and_of_disjoint _ rfl

/-- Settles O11, by the laws of R92 and R97 on the masked byte. -/
theorem bytesWrittenBackKeepTheData : Obligations.BytesWrittenBackKeepTheData :=
  ⟨fun r => ⟨getLsbD_clkenByte r, getLsbD_clkdisByte r⟩, fun _ h => ⟨clkenByte_of_validBcd h, clkdisByte_of_validBcd h⟩,
    batenByte_eq, setdtSeconds_and⟩

/-! ## The steps of each command -/

/-- R103: acceptance, in the statements' own terms. -/
theorem accept_eq_acceptedAs (i : Instr) (s : State) : s.accept (encode i) = acceptedAs i s := rfl

/-- R104: completion without a result, in the statements' own terms. -/
theorem toIdle_finishQuiet (s : State) : (finishQuiet s).toIdle = completedAs false none s := by
  simp [completedAs, finishQuiet, State.clearStatus, State.writeStatus, State.toIdle]

/-- R65, R104: completion with a result, in the statements' own terms. -/
theorem toIdle_finishResult (r : Buf) (s : State) : (finishResult r s).toIdle = completedAs false (some r) s := by
  simp [completedAs, finishResult, State.writeRes, State.clearStatus, State.writeStatus, State.toIdle]

/-- R103, R104: a command walks its own trace, and completes as its meaning says. -/
theorem walksTrace_of_traceOf {i : Instr} {tr : Config → Buf → List Event} {res : Buf → Option Buf}
    (htr : ∀ c rx, traceOf c rx i = tr c rx) (hne : ∀ c rx, tr c rx ≠ [])
    (hfin : ∀ s, (finishOf s.rxbuf i s).toIdle = completedAs false (res s.rxbuf) s) : WalksTrace i tr res := by
  intro s
  have hs : s.traceOf i = tr s.cfg s.rxbuf := htr s.cfg s.rxbuf
  rw [exec_eq_runCommand, hs]
  refine ⟨fun hp => ?_, fun e hp hret he => ?_, fun hp hlen => ?_⟩
  · rw [runCommand_idle hp (hne _ _), accept_eq_acceptedAs]
  · exact ⟨_, runCommand_event hp he hret, emitsEvent_emit hp _ e⟩
  · rw [runCommand_complete hp hlen.ge, hfin]

/-- Settles O12, by SETDT's own trace: the year's mask removes nothing. -/
theorem setdtWritesTheTimeRegisters : Obligations.SetdtWritesTheTimeRegisters := by
  intro sec mi h dow dom mo y
  have hyear : encodeField Const.mYear y = decToBcd y := BitVec.and_allOnes
  refine walksTrace_of_traceOf (fun c _ => ?_) nofun toIdle_finishQuiet
  rw [← hyear]
  rfl

/-- Settles O13, by GETDT's own trace and result. -/
theorem getdtReadsTheTimeRegisters : Obligations.GetdtReadsTheTimeRegisters :=
  walksTrace_of_traceOf (fun _ _ => rfl) nofun fun s => toIdle_finishResult (getdtResult s.rxbuf) s

/-- Settles O14, by CLKEN's own trace. -/
theorem clkenRewritesTheSecondsWithBitSevenSet : Obligations.ClkenRewritesTheSecondsWithBitSevenSet :=
  walksTrace_of_traceOf (fun _ _ => rfl) nofun toIdle_finishQuiet

/-- Settles O15, by CLKDIS's own trace. -/
theorem clkdisRewritesTheSecondsWithBitSevenClear : Obligations.ClkdisRewritesTheSecondsWithBitSevenClear :=
  walksTrace_of_traceOf (fun _ _ => rfl) nofun toIdle_finishQuiet

/-- Settles O16, by BATEN's own trace. -/
theorem batenRewritesTheDayOfWeekWithBitThreeSet : Obligations.BatenRewritesTheDayOfWeekWithBitThreeSet :=
  walksTrace_of_traceOf (fun _ _ => rfl) nofun toIdle_finishQuiet

end Sys2Proof.Machine
end

section
/-! The time field mapper's statements (spec 42_time_field_mapper.md), whole commands on the reference target: what a read
sequence with no failure receives, one command after another, SETDT then GETDT, and CLKEN, CLKDIS and BATEN. -/

namespace Sys2Proof.Machine

/-! ## A read sequence with no failure -/

theorem Buf.get_set (b : Buf) (i : Nat) (v : Byte) (k : Fin 7) :
    (b.set i v).get k = if i = k.val then v else b.get k := by
  match i with
  | 0 | 1 | 2 | 3 | 4 | 5 | 6 => fin_cases k <;> rfl
  | i + 7 =>
    rw [if_neg (by omega)]
    rfl

/-- R13: the first `RECV`s of a trace that begins with a read sequence fill `RXBUF` from byte 0 on. -/
theorem rxIndex_of_readSeq {c : Config} {dev : Device} {p : Byte} {n j : Nat} {tr : List Event}
    (htr : readSeq c dev p n <+: tr) (hj : j ≤ n) : rxIndex tr (j + 4) = j := by
  obtain ⟨rest, rfl⟩ := htr
  simp [rxIndex, readSeq, writeSeq, List.take_append, List.take_replicate, hj]

/-- R49, R101: byte `k` received after a `REQ` is the one `k` on from the pointer. -/
theorem NoFailure.get_rxbuf_req {s : State} (h : NoFailure s) {a : DevAddr} {x : Device}
    (hx : deviceAt s.cfg a = some x) {tr : List Event} {n i : Nat} (hi : i ≤ n)
    (hplace : ∀ j < n, rxIndex tr (s.seq + 1 + j) = j) {k : Fin 7} (hk : k.val < i) :
    (s.emitAll tr (.req a n :: List.replicate i .recv)).rxbuf.get k =
      s.byteAt x (s.target.ptr x + BitVec.ofNat 8 k) := by
  induction i with
  | zero => omega
  | succ i ih =>
    obtain ⟨hreceived, -⟩ := recvReturnsTheByteAtThePointer s tr a n i x h hx (by omega)
    have hseq := s.emitAll_seq tr (.req a n :: List.replicate i .recv)
    rw [List.length_cons, List.length_replicate, Nat.add_comm i, ← Nat.add_assoc] at hseq
    rw [List.replicate_succ', ← List.cons_append, State.emitAll_append, State.emitAll_cons, State.emitAll_nil,
      State.emit_rxbuf, State.rxAfter, hseq, hplace i (by omega), Buf.get_set]
    by_cases hki : i = k.val
    · rw [if_pos hki, hreceived (by omega), hki]
    · rw [if_neg hki, ih (by omega) (by omega)]

section
variable {s : State} {dev : Device}

/-- A read sequence moves the pointer of its device past the bytes read, and nothing else of the target (R49, R101). -/
theorem NoFailure.target_readSeq (h : NoFailure s) (hx : deviceAt s.cfg (addrOf s.cfg dev) = some dev) (tr : List Event)
    (p : Byte) (n : Nat) :
    (s.emitAll tr (readSeq s.cfg dev p n)).target = s.target.setPtr dev (p + BitVec.ofNat 8 n) := by
  have hpointed := h.emitAll_writeSeq hx tr p []
  obtain ⟨-, hread⟩ := (h.emitAll tr (writeSeq s.cfg dev p [])).emitAll_req (by simpa using hx) tr (le_refl n)
  rw [readSeq, State.emitAll_append, hread, hpointed, Target.deliver_pointer, Target.setPtr_setPtr,
    Target.ptr_setPtr_same]

/-- A read sequence at the head of a trace receives the bytes of its registers, in order (R49, R101). -/
theorem NoFailure.get_rxbuf_readSeq (h : NoFailure s) (hx : deviceAt s.cfg (addrOf s.cfg dev) = some dev)
    (hseq : s.seq = 0) {tr : List Event} {p : Byte} {n : Nat} (htr : readSeq s.cfg dev p n <+: tr) {k : Fin 7}
    (hk : k.val < n) :
    (s.emitAll tr (readSeq s.cfg dev p n)).rxbuf.get k = s.byteAt dev (p + BitVec.ofNat 8 k) := by
  have hpointed := h.emitAll_writeSeq hx tr p []
  rw [Target.deliver_pointer] at hpointed
  have hplace : ∀ j < n, rxIndex tr ((s.emitAll tr (writeSeq s.cfg dev p [])).seq + 1 + j) = j := fun j hj => by
    rw [State.emitAll_seq, hseq, Nat.add_comm _ j]
    exact rxIndex_of_readSeq htr hj.le
  rw [readSeq, State.emitAll_append,
    (h.emitAll tr (writeSeq s.cfg dev p [])).get_rxbuf_req (by simpa using hx) (le_refl n) hplace hk, State.byteAt,
    hpointed, Target.ptr_setPtr_same, Target.mem_setPtr, State.byteAt]

end

/-! ## One command after another -/

@[simp] theorem State.emitAll_host (s : State) (tr es : List Event) : (s.emitAll tr es).host = s.host := by
  induction es generalizing s with
  | nil => rfl
  | cons e es ih => exact ih _

/-- The state in which the command `i` accepted in `s` has completed. -/
def State.completed (s : State) (i : Instr) : State := (finishOf (s.walked i).rxbuf i (s.walked i)).toIdle

theorem State.completed_target (s : State) (i : Instr) : (s.completed i).target = (s.walked i).target := by
  simp [State.completed, finishOf_frame]

/-- R66, R107: the next word the host has is presented to the block as the command leaves it. -/
theorem Presents.presents_completed {i j : Instr} {s : State} (h : Presents i s) (hret : s.env.returns = none)
    (hj : s.host.tail.head? = some (encode j)) : Presents j (s.completed i) := by
  have hw : Running i (s.walked i) := (h.running_accept hret).emitAll _ _
  refine ⟨?_, ?_, rfl, ?_⟩
  · simpa [State.completed] using hw.wf
  · simpa [State.completed, finishOf_frame] using hw.resetIn
  · simpa [State.completed, finishOf_frame, State.walked] using hj

theorem NoFailure.returns_eq {s : State} (h : NoFailure s) : s.env.returns = none := by
  obtain ⟨henv, -⟩ := h
  rw [henv]

theorem NoFailure.completed {s : State} (h : NoFailure s) (i : Instr) : NoFailure (s.completed i) := by
  have hacc : NoFailure (s.accept (encode i)) := h
  obtain ⟨henv, hknown⟩ : NoFailure (s.walked i) := hacc.emitAll _ _
  exact ⟨by simpa [State.completed, finishOf_frame] using henv, by rw [State.completed_target, hknown]⟩

/-! ## SETDT, then GETDT -/

theorem Buf.ext_get {a b : Buf} (h : ∀ k, a.get k = b.get k) : a = b :=
  congr (congr (congr (congr (congr (congr (congrArg Buf.mk (h 0)) (h 1)) (h 2)) (h 3)) (h 4)) (h 5)) (h 6)

/-- What SETDT leaves in the seven time registers (R110). -/
def setdtRegisters (sec mi h dow dom mo y : Byte) : Buf :=
  ⟨setdtSeconds sec, encodeField Const.mMin mi, encodeField Const.mHour h, encodeField Const.mDow dow ||| Const.batEnBit,
    encodeField Const.mDom dom, encodeField Const.mMon mo, encodeField Const.mYear y⟩

/-- R110: the registers after both transactions of SETDT. -/
theorem byteAt_of_setdt {s m t : State} {sec mi h dow dom mo y : Byte} (hs : MemoryCanonical s)
    (hm : m.target = s.target.deliver .rtc (s.cfg.rtcTimeBase :: setdtBurst sec mi h dow dom mo y))
    (ht : t.target = m.target.deliver .rtc [s.cfg.rtcTimeBase, setdtSeconds sec]) (k : Fin 7) :
    t.byteAt .rtc (s.cfg.rtcTimeBase + BitVec.ofNat 8 k) = (setdtRegisters sec mi h dow dom mo y).get k := by
  by_cases hk : k.val = 0
  · obtain rfl : k = 0 := Fin.ext hk
    exact byteAt_of_deliver_rtc (memoryCanonical_of_deliver hs hm) ht (by simp) (k := 0) (by simp)
  · rw [byteAt_of_setdtSeconds ht (by omega) k.isLt, byteAt_of_setdtBurst hs hm k.isLt]
    fin_cases k
    · exact absurd rfl hk
    all_goals rfl

section
variable {t : State}

/-- R111: GETDT completes with what its masks and the decoder make of the seven time registers. -/
theorem res_completed_getdt (h : NoFailure t) {r : Buf}
    (hr : ∀ k : Fin 7, t.byteAt .rtc (t.cfg.rtcTimeBase + BitVec.ofNat 8 k) = r.get k) :
    (t.completed .getdt).res = getdtResult r := by
  have hacc : NoFailure (t.accept (encode .getdt)) := h
  have hrx : (t.walked .getdt).rxbuf = r := Buf.ext_get fun k =>
    (hacc.get_rxbuf_readSeq (deviceAt_rtc _) rfl (List.prefix_refl _) k.isLt).trans (hr k)
  rw [← hrx]
  rfl

/-- R38: GETDT leaves the registers as they were. -/
theorem byteAt_completed_getdt (h : NoFailure t) (a : Byte) :
    (t.completed .getdt).byteAt .rtc a = t.byteAt .rtc a := by
  have hacc : NoFailure (t.accept (encode .getdt)) := h
  have htarget : (t.walked .getdt).target = _ := hacc.target_readSeq (deviceAt_rtc _) _ t.cfg.rtcTimeBase 7
  rw [State.byteAt, State.completed_target, htarget, Target.mem_setPtr, State.accept_target, State.byteAt]

end

/-- R83, R92: a field the write mask holds reads back. -/
theorem decodeField_encodeField {mask v : Byte} (hv : v.toNat ≤ 99) (hmask : encodeField mask v = decToBcd v) :
    decodeField mask (encodeField mask v) = v := by
  have hidem : encodeField mask v &&& mask = encodeField mask v := by
    rw [encodeField, BitVec.and_assoc, BitVec.and_self]
  rw [decodeField, hidem, hmask, bcdToDec_decToBcd hv]

/-- R118: the clock-enable bit is masked away, so the seconds read back. -/
theorem decodeField_setdtSeconds {v : Byte} (hv : v.toNat ≤ 59) : decodeField Const.mSec (setdtSeconds v) = v := by
  obtain ⟨hsec, -⟩ := writeMasksHoldEveryLegalValue
  obtain ⟨hmask, -⟩ := hsec v hv
  rw [decodeField, Const.mSec, setdtSeconds_and, hmask, bcdToDec_decToBcd (by omega)]

/-- R111: the battery-enable bit is masked away. -/
theorem decodeField_or_batEnBit (x : Byte) : decodeField Const.mDow (x ||| Const.batEnBit) = decodeField Const.mDow x :=
  congrArg bcdToDec (or_and_of_disjoint x rfl)

/-- R118: a day of week read back is at most 7. -/
theorem toNat_decodeField_mDow_le (r : Byte) : (decodeField Const.mDow r).toNat ≤ 7 := by
  have hle : (r &&& Const.mDow).toNat ≤ 7 := toNat_and_seven_le r
  rw [decodeField, toNat_bcdToDec]
  omega

/-- R118: GETDT's result on the registers SETDT leaves, the day of week apart. -/
theorem getdtResult_setdtRegisters {sec mi h dom mo y : Byte} (dow : Byte) (hsec : sec.toNat ≤ 59) (hmi : mi.toNat ≤ 59)
    (hh : h.toNat ≤ 23) (hdom1 : 1 ≤ dom.toNat) (hdom : dom.toNat ≤ 31) (hmo1 : 1 ≤ mo.toNat) (hmo : mo.toNat ≤ 12)
    (hy : y.toNat ≤ 99) :
    getdtResult (setdtRegisters sec mi h dow dom mo y) =
      ⟨sec, mi, h, decodeField Const.mDow (encodeField Const.mDow dow), dom, mo, y⟩ := by
  obtain ⟨hmin, hhour, -, hday, hmon, hyear⟩ := writeMasksHoldEveryLegalValue
  obtain ⟨-, hmmin⟩ := hmin mi hmi
  simp only [getdtResult, setdtRegisters, decodeField_setdtSeconds hsec, decodeField_or_batEnBit,
    decodeField_encodeField (show mi.toNat ≤ 99 by omega) hmmin,
    decodeField_encodeField (show h.toNat ≤ 99 by omega) (hhour h hh),
    decodeField_encodeField (show dom.toNat ≤ 99 by omega) (hday dom hdom1 hdom),
    decodeField_encodeField (show mo.toNat ≤ 99 by omega) (hmon mo hmo1 hmo), decodeField_encodeField hy (hyear y hy)]

/-- Settles O38: GETDT receives the registers SETDT left, and its masks undo the enable bits; a day of week above 7 does not
survive the mask. -/
theorem setThenGetReadsBack : Obligations.SetThenGetReadsBack := by
  intro s sec mi h dow dom mo y hpres hnf hs hnext hsec hmi hh hdom1 hdom hmo1 hmo hy hdow1 _
  obtain ⟨m, t, -, hrun, hm, ht⟩ := run_setdt hpres hnf
  obtain rfl : t = s.completed (.setdt sec mi h dow dom mo y) :=
    Host.Outcome.next.inj (hrun.symm.trans (hpres.run_complete hnf.returns_eq rfl nofun))
  have hregs := byteAt_of_setdt hs hm ht
  have hcfg : (s.completed (.setdt sec mi h dow dom mo y)).cfg = s.cfg := by
    simp [State.completed, State.walked]
  have hpres' := hpres.presents_completed hnf.returns_eq hnext
  have hnf' := hnf.completed (.setdt sec mi h dow dom mo y)
  generalize s.completed (.setdt sec mi h dow dom mo y) = t at *
  have hres := res_completed_getdt hnf' (hcfg ▸ hregs)
  rw [getdtResult_setdtRegisters dow hsec hmi hh hdom1 hdom hmo1 hmo hy] at hres
  refine ⟨t, t.completed .getdt, hrun, hpres'.run_complete hnf'.returns_eq rfl nofun, rfl, ?_, fun h7 => ?_,
    fun h8 heq => ?_⟩
  · have hzero : t.byteAt .rtc s.cfg.rtcTimeBase = setdtSeconds sec :=
      byteAt_pointer_of_deliver_rtc (memoryCanonical_of_deliver hs hm) ht (by simp)
    rw [byteAt_completed_getdt hnf', hzero, getLsbD_setdtSeconds]
  · obtain ⟨-, -, hmask, -⟩ := writeMasksHoldEveryLegalValue
    rw [hres, decodeField_encodeField (by omega) (hmask dow hdow1 h7)]
  · have hle := toNat_decodeField_mDow_le (encodeField Const.mDow dow)
    have hdow : decodeField Const.mDow (encodeField Const.mDow dow) = dow := by rwa [hres] at heq
    rw [hdow] at hle
    omega

/-! ## A read-modify-write -/

theorem State.traceOf_emit_of_ne_recv (s : State) (i : Instr) (tr : List Event) {e : Event} (h : e ≠ .recv) :
    (s.emit tr e).traceOf i = s.traceOf i := by
  simp only [State.traceOf, State.emit_cfg, s.rxbuf_emit_of_ne_recv tr h]

/-- R104: as many steps as there are events next in the trace emit them, for any command, up to and including its next
`RECV`: only there may the trace change. -/
theorem Running.run_emitAll_to_recv {i : Instr} {s : State} (h : Running i s) {es rest : List Event}
    (hes : (s.traceOf i).drop s.seq = es ++ rest) (hrecv : ∀ e ∈ es.dropLast, e ≠ .recv) (n : Nat) :
    Host.Core.run core (es.length + n) s = Host.Core.run core n (s.emitAll (s.traceOf i) es) := by
  induction es generalizing s with
  | nil => simp
  | cons e es ih =>
    have he : (s.traceOf i)[s.seq]? = some e := by
      rw [← List.head?_drop, hes, List.cons_append, List.head?_cons]
    rw [List.length_cons, Nat.add_right_comm, run_succ (h.step_event he), State.emitAll_cons]
    cases es with
    | nil => simp
    | cons e' es =>
      obtain ⟨hne, hrest⟩ := List.forall_mem_cons.mp hrecv
      have htrace := s.traceOf_emit_of_ne_recv i (s.traceOf i) hne
      have htail : ((s.emit (s.traceOf i) e).traceOf i).drop (s.emit (s.traceOf i) e).seq = e' :: es ++ rest := by
        rw [htrace, State.emit_seq, ← List.tail_drop, hes, List.cons_append, List.tail_cons]
      rw [ih (h.emit _ e) htail hrest, htrace]

/-- R104: the events left, none a `RECV` but perhaps the last, and completion. -/
theorem Running.run_rest {i : Instr} {s : State} (h : Running i s) {es : List Event}
    (hes : (s.traceOf i).drop s.seq = es) (hrecv : ∀ e ∈ es.dropLast, e ≠ .recv) :
    ∃ t, Host.Core.run core (es.length + 1) s = .next t ∧ t.target = (s.emitAll (s.traceOf i) es).target := by
  have hrun := h.run_emitAll_to_recv (hes.trans (List.append_nil _).symm) hrecv 1
  have hdone : ((s.emitAll (s.traceOf i) es).traceOf i).length ≤ (s.emitAll (s.traceOf i) es).seq := by
    have hlen : (s.traceOf i).length - s.seq = es.length := by rw [← hes, List.length_drop]
    rw [State.traceOf, State.emitAll_cfg, length_traceOf s.cfg _ s.rxbuf, State.emitAll_seq, ← State.traceOf]
    omega
  have hcomplete := (h.emitAll (s.traceOf i) es).step_complete hdone
  exact ⟨_, hrun.trans ((run_succ hcomplete).trans (run_zero _)), by simp [finishOf_frame]⟩

section
variable {i : Instr} {s : State} {p : Byte} {f : Byte → Byte}

/-- R112 to R114: the read of a read-modify-write of the register at `p`: the byte there is received, and the block goes on
with `f` of it. -/
theorem Running.run_modify_read (h : Running i s) (hseq : s.seq = 0) (hnf : NoFailure s) (hs : MemoryCanonical s)
    (htrace : ∀ rx, traceOf s.cfg rx i = modifyTrace s.cfg p f rx) :
    ∃ u, Running i u ∧ NoFailure u ∧ MemoryCanonical u ∧ u.cfg = s.cfg ∧
      (u.traceOf i).drop u.seq = writeSeq s.cfg .rtc p [f (s.byteAt .rtc p)] ∧
      ∀ n, Host.Core.run core (5 + n) s = Host.Core.run core n u := by
  have htr : s.traceOf i = readSeq s.cfg .rtc p 1 ++ writeSeq s.cfg .rtc p [f s.rxbuf.b0] := htrace s.rxbuf
  have hrun := h.run_emitAll_to_recv (es := readSeq s.cfg .rtc p 1) (by rw [hseq, List.drop_zero, htr])
    (by simp [readSeq, writeSeq])
  have htarget := hnf.target_readSeq (deviceAt_rtc _) (s.traceOf i) p 1
  have hbyte := hnf.get_rxbuf_readSeq (deviceAt_rtc _) hseq (htr ▸ List.prefix_append _ _) (k := 0) Nat.one_pos
  have hu := h.emitAll (s.traceOf i) (readSeq s.cfg .rtc p 1)
  have hnf' := hnf.emitAll (s.traceOf i) (readSeq s.cfg .rtc p 1)
  have hcfg := s.emitAll_cfg (s.traceOf i) (readSeq s.cfg .rtc p 1)
  have hseq' := s.emitAll_seq (s.traceOf i) (readSeq s.cfg .rtc p 1)
  generalize s.emitAll (s.traceOf i) (readSeq s.cfg .rtc p 1) = u at *
  have hb0 : u.rxbuf.b0 = s.byteAt .rtc p := hbyte.trans (congrArg (s.byteAt .rtc) (BitVec.add_zero p))
  refine ⟨u, hu, hnf', memoryCanonical_of_deliver hs (htarget.trans (Target.deliver_pointer ..).symm), hcfg, ?_, hrun⟩
  rw [State.traceOf, hcfg, htrace, hseq', hseq, modifyTrace, hb0, Nat.zero_add, List.drop_left]

/-- R112 to R114: a read-modify-write of the register at `p` completes with `f` of the byte there stored back. -/
theorem Running.run_modify (h : Running i s) (hseq : s.seq = 0) (hnf : NoFailure s) (hs : MemoryCanonical s)
    (htrace : ∀ rx, traceOf s.cfg rx i = modifyTrace s.cfg p f rx) :
    ∃ t, Host.Core.run core 10 s = .next t ∧ t.byteAt .rtc p = f (s.byteAt .rtc p) := by
  obtain ⟨u, hu, hnf', hs', hcfg, hrest, hread⟩ := h.run_modify_read hseq hnf hs htrace
  rw [← hcfg] at hrest
  obtain ⟨t, hwrite, htarget⟩ := hu.run_rest hrest (by simp [writeSeq])
  rw [hnf'.emitAll_writeSeq (deviceAt_rtc _)] at htarget
  exact ⟨t, (hread 5).trans hwrite, byteAt_pointer_of_deliver_rtc hs' htarget (by simp)⟩

/-- The same, from the host's presenting the command. -/
theorem Presents.run_modify (h : Presents i s) (hnf : NoFailure s) (hs : MemoryCanonical s)
    (htrace : ∀ rx, traceOf s.cfg rx i = modifyTrace s.cfg p f rx) :
    ∃ t, Host.Core.run core 11 s = .next t ∧ t.byteAt .rtc p = f (s.byteAt .rtc p) := by
  have hne : s.traceOf i ≠ [] := by simp [State.traceOf, htrace, modifyTrace, readSeq, writeSeq]
  rw [run_succ (h.step_accept hne)]
  exact (h.running_accept hnf.returns_eq).run_modify rfl hnf hs htrace

end

/-! ## CLKEN, CLKDIS and BATEN -/

/-- R119: valid seconds are kept by CLKEN. -/
theorem clkenByte_and_of_validBcd {r : Byte} (h : validBcd (r &&& 0x7F#8) = true) :
    clkenByte r &&& 0x7F#8 = r &&& 0x7F#8 := by
  rw [clkenByte_of_validBcd h, or_and_of_disjoint _ rfl, BitVec.and_assoc, BitVec.and_self]

/-- R119: valid seconds are kept by CLKDIS. -/
theorem clkdisByte_and_of_validBcd {r : Byte} (h : validBcd (r &&& 0x7F#8) = true) :
    clkdisByte r &&& 0x7F#8 = r &&& 0x7F#8 := by
  rw [clkdisByte_of_validBcd h, BitVec.and_assoc, BitVec.and_self]

/-- R119: the day of week is kept by BATEN. -/
theorem batenByte_and (r : Byte) : batenByte r &&& 0x07#8 = r &&& 0x07#8 := by
  rw [batenByte_eq, or_and_of_disjoint _ rfl, BitVec.and_assoc, BitVec.and_self]

/-- Settles O39: each command stores back its byte of the one there, and what that byte keeps is O11's. -/
theorem clockAndBatteryCommandsKeepTheData : Obligations.ClockAndBatteryCommandsKeepTheData := by
  refine fun s hnf hs => ⟨fun h => ?_, fun h => ?_, fun h => ?_⟩
  · obtain ⟨t, hrun, hbyte⟩ := h.run_modify hnf hs fun _ => rfl
    refine ⟨t, hrun, ?_, fun hvalid => ?_⟩
    · rw [hbyte, getLsbD_clkenByte]
    · rw [hbyte, clkenByte_and_of_validBcd hvalid]
  · obtain ⟨t, hrun, hbyte⟩ := h.run_modify hnf hs fun _ => rfl
    refine ⟨t, hrun, ?_, fun hvalid => ?_⟩
    · rw [hbyte, getLsbD_clkdisByte]
    · rw [hbyte, clkdisByte_and_of_validBcd hvalid]
  · obtain ⟨t, hrun, hbyte⟩ := h.run_modify hnf hs (p := s.cfg.rtcTimeBase + 3#8) fun _ => rfl
    refine ⟨t, hrun, ?_, ?_⟩
    · rw [hbyte, getLsbD_batenByte]
    · rw [hbyte, batenByte_and]

end Sys2Proof.Machine
end

section
/-! The SRAM accessor's statements (spec 43_sram_accessor.md): the steps of SRAMWR and SRAMRD inside the window and outside
it, a byte written and read back, and that a write reaches neither a time register nor the unlock register. -/

namespace Sys2Proof.Machine

/-! ## Inside the window and outside it -/

theorem inSramWindow_eq_false {loc : Byte} (h : ¬(0x20 ≤ loc.toNat ∧ loc.toNat ≤ 0x5F)) : inSramWindow loc = false :=
  Bool.eq_false_iff.mpr ((inSramWindow_iff loc).not.mpr h)

section
variable {loc : Byte}

/-- R131: inside the window SRAMWR is one write sequence. -/
theorem sramwrTrace_of_inside (h : inSramWindow loc = true) (c : Config) (data : Byte) :
    sramwrTrace c loc data = writeSeq c .rtc loc [data] :=
  if_pos h

/-- R132: inside the window SRAMRD is one read sequence. -/
theorem sramrdTrace_of_inside (h : inSramWindow loc = true) (c : Config) : sramrdTrace c loc = readSeq c .rtc loc 1 :=
  if_pos h

/-- R131: outside the window there is no event. -/
theorem sramwrTrace_of_outside (h : inSramWindow loc = false) (c : Config) (data : Byte) : sramwrTrace c loc data = [] := by
  simp [sramwrTrace, h]

/-- R132: outside the window there is no event. -/
theorem sramrdTrace_of_outside (h : inSramWindow loc = false) (c : Config) : sramrdTrace c loc = [] := by
  simp [sramrdTrace, h]

theorem sramwrFinish_of_inside (h : inSramWindow loc = true) (s : State) : sramwrFinish loc s = finishQuiet s :=
  if_pos h

theorem sramrdFinish_of_inside (h : inSramWindow loc = true) (s : State) :
    sramrdFinish loc s = finishResult (Buf.single s.rxbuf.b0) s :=
  if_pos h

/-- R131: outside the window SRAMWR raises the range flag only. -/
theorem sramwrFinish_of_outside (h : inSramWindow loc = false) (s : State) : sramwrFinish loc s = s.raiseRange := by
  simp [sramwrFinish, h]

/-- R132, D9: outside the window SRAMRD draws its result and raises the range flag. -/
theorem sramrdFinish_of_outside (h : inSramWindow loc = false) (s : State) :
    sramrdFinish loc s = ((s.writeRes (Buf.single (Config.any8 s.draws))).countDraw).raiseRange := by
  simp [sramrdFinish, h]

end

/-- R103: a command without events is accepted and completed in one step. -/
theorem exec_idle_empty {i : Instr} {s : State} (hp : s.phase = .idle) (ht : s.traceOf i = []) :
    exec i s = .next (finishOf s.rxbuf i (s.accept (encode i))).toIdle := by
  rw [exec_eq_runCommand, runCommand_idle_empty hp ht]

/-- Settles O17: inside the window the engine walks the write sequence, outside it the accepting step also completes. -/
theorem sramwrWritesOnlyInsideTheWindow : Obligations.SramwrWritesOnlyInsideTheWindow := by
  refine fun loc data => ⟨fun hin => ?_, fun hout s hp => ?_⟩
  · have hin := (inSramWindow_iff loc).mpr hin
    refine walksTrace_of_traceOf (fun c _ => sramwrTrace_of_inside hin c data) nofun fun s => ?_
    rw [finishOf, sramwrFinish_of_inside hin, toIdle_finishQuiet]
  · have hout := inSramWindow_eq_false hout
    rw [exec_idle_empty (i := .sramwr loc data) hp (sramwrTrace_of_outside hout s.cfg data), finishOf,
      sramwrFinish_of_outside hout]
    simp [State.accept, State.raiseRange, State.writeStatus, State.toIdle, hp]

/-- Settles O18: inside the window the engine walks the read sequence, outside it the accepting step also completes, with a
drawn result. -/
theorem sramrdReadsOnlyInsideTheWindow : Obligations.SramrdReadsOnlyInsideTheWindow := by
  refine fun loc => ⟨fun hin => ?_, fun hout s hp => ?_⟩
  · have hin := (inSramWindow_iff loc).mpr hin
    refine walksTrace_of_traceOf (fun c _ => sramrdTrace_of_inside hin c) nofun fun s => ?_
    rw [finishOf, sramrdFinish_of_inside hin, toIdle_finishResult, Buf.single]
  · have hout := inSramWindow_eq_false hout
    rw [exec_idle_empty (i := .sramrd loc) hp (sramrdTrace_of_outside hout s.cfg), finishOf, sramrdFinish_of_outside hout]
    simp [State.accept, State.writeRes, State.countDraw, State.raiseRange, State.writeStatus, State.toIdle, Buf.single, hp]

/-! ## SRAMWR, then SRAMRD -/

section
variable {s : State} {loc : Byte}

/-- R131: SRAMWR inside the window delivers its one byte to its location. -/
theorem target_completed_sramwr (h : NoFailure s) (hin : inSramWindow loc = true) (data : Byte) :
    (s.completed (.sramwr loc data)).target = s.target.deliver .rtc [loc, data] := by
  have hacc : NoFailure (s.accept (encode (.sramwr loc data))) := h
  have htr : s.traceOf (.sramwr loc data) = writeSeq s.cfg .rtc loc [data] := sramwrTrace_of_inside hin s.cfg data
  rw [State.completed_target, State.walked, htr]
  exact hacc.emitAll_writeSeq (deviceAt_rtc s.cfg) _ loc [data]

/-- R132: SRAMRD inside the window completes with the byte at its location. -/
theorem res_completed_sramrd (h : NoFailure s) (hin : inSramWindow loc = true) :
    (s.completed (.sramrd loc)).res = Buf.single (s.byteAt .rtc loc) := by
  have hacc : NoFailure (s.accept (encode (.sramrd loc))) := h
  have htr : s.traceOf (.sramrd loc) = readSeq s.cfg .rtc loc 1 := sramrdTrace_of_inside hin s.cfg
  have hbyte : (s.walked (.sramrd loc)).rxbuf.get 0 = s.byteAt .rtc (loc + 0#8) := by
    rw [State.walked, htr]
    exact hacc.get_rxbuf_readSeq (deviceAt_rtc s.cfg) rfl (List.prefix_refl _) (k := 0) Nat.one_pos
  rw [BitVec.add_zero] at hbyte
  rw [State.completed, finishOf, sramrdFinish_of_inside hin, State.toIdle_res, finishResult_res, ← hbyte]
  rfl

/-- R131: SRAMWR inside the window takes six steps. -/
theorem Presents.run_sramwr {data : Byte} (hpres : Presents (.sramwr loc data) s) (h : NoFailure s)
    (hin : inSramWindow loc = true) :
    Host.Core.run core 6 s = .next (s.completed (.sramwr loc data)) := by
  have htr : s.traceOf (.sramwr loc data) = writeSeq s.cfg .rtc loc [data] := sramwrTrace_of_inside hin s.cfg data
  have hrun := hpres.run_complete h.returns_eq rfl (by rw [htr]; nofun)
  rwa [htr] at hrun

/-- R132: SRAMRD inside the window takes seven steps. -/
theorem Presents.run_sramrd (hpres : Presents (.sramrd loc) s) (h : NoFailure s) (hin : inSramWindow loc = true) :
    Host.Core.run core 7 s = .next (s.completed (.sramrd loc)) := by
  have htr : s.traceOf (.sramrd loc) = readSeq s.cfg .rtc loc 1 := sramrdTrace_of_inside hin s.cfg
  have hrun := hpres.run_complete h.returns_eq rfl (by rw [htr]; nofun)
  rwa [htr] at hrun

end

/-- Settles O40: the write stores the byte at its location, and the read receives the byte there. -/
theorem sramWriteThenReadReturnsTheByte : Obligations.SramWriteThenReadReturnsTheByte := by
  intro s loc data hpres hnf hs hnext hlo hhi
  have hin := (inSramWindow_iff loc).mpr ⟨hlo, hhi⟩
  have hnf' := hnf.completed (.sramwr loc data)
  have hstored : (s.completed (.sramwr loc data)).byteAt .rtc loc = data :=
    byteAt_pointer_of_deliver_rtc hs (target_completed_sramwr hnf hin data) (by simp)
  have hpres' := hpres.presents_completed hnf.returns_eq hnext
  refine ⟨_, _, hpres.run_sramwr hnf hin, hpres'.run_sramrd hnf' hin, rfl, ?_, ?_⟩
  · rw [res_completed_sramrd hnf' hin, hstored, Buf.single]
  · simp [State.completed, finishOf_frame, outOfRange, hin]

/-! ## What a write leaves alone -/

theorem mayStore_sramwr_iff (c : Config) (x : Device) (a loc data : Byte) :
    mayStore c x a (.sramwr loc data) = true ↔ x = .rtc ∧ a = loc ∧ inSramWindow loc = true := by
  simp [mayStore, and_assoc]

/-- R131: SRAMWR stores to no address outside the window. -/
theorem mayStore_sramwr_of_outside {a : Byte} (h : ¬(0x20 ≤ a.toNat ∧ a.toNat ≤ 0x5F)) (c : Config) (x : Device)
    (loc data : Byte) : mayStore c x a (.sramwr loc data) = false := by
  rw [Bool.eq_false_iff, ne_eq, mayStore_sramwr_iff]
  rintro ⟨-, rfl, hin⟩
  exact h ((inSramWindow_iff a).mp hin)

/-- R6: no time register of a well-formed configuration lies in the SRAM window. -/
theorem timeRegister_outside_window {c : Config} (hw : c.wf = true) {k : Nat} (hk : k < 7) :
    ¬(0x20 ≤ (c.rtcTimeBase + BitVec.ofNat 8 k).toNat ∧ (c.rtcTimeBase + BitVec.ofNat 8 k).toNat ≤ 0x5F) := by
  obtain ⟨-, hbase, happart⟩ := c.wf_iff.mp hw
  obtain ⟨-, hwindow⟩ := happart k hk
  rwa [BitVec.toNat_add, BitVec.toNat_ofNat, Nat.mod_eq_of_lt (show k < 2 ^ 8 by omega),
    Nat.mod_eq_of_lt (show c.rtcTimeBase.toNat + k < 2 ^ 8 by omega)]

/-- Bytes stored in the RTC space apart from the unlock register do not move a lock that is not `HALF` (R48). -/
theorem lockAlong_of_apart {l : Lock} (hl : l ≠ .half) {p : Byte} {ds : List Byte}
    (h : ∀ r : Byte, (r - p).toNat < ds.length → r ≠ 0x09#8) : lockAlong l p ds = l := by
  induction ds generalizing p with
  | nil => rfl
  | cons d ds ih =>
    have hp : p ≠ 0x09#8 := h p (by simp)
    rw [lockAlong, lockAfterRtcStore_other l d hp, if_neg hl]
    refine ih fun r hr => ?_
    by_cases hrp : r = p
    · exact hrp ▸ hp
    · exact h r (by rw [toNat_sub_eq_succ hrp, List.length_cons]; omega)

/-- A transaction whose data bytes all fall on RTC addresses apart from the unlock register does not move a lock that is not
`HALF` (R47, R48). -/
theorem Target.lock_deliver_of_apart {t : Target} (hl : t.lock ≠ .half) {x : Device} {p : Byte} {ds : List Byte}
    (h : ∀ r : Byte, (r - p).toNat < ds.length → x = .rtc ∧ r ≠ 0x09#8) : (t.deliver x (p :: ds)).lock = t.lock := by
  cases ds with
  | nil => simp
  | cons d ds =>
    obtain ⟨rfl, -⟩ := h p (by simp)
    rw [Target.lock_deliver_rtc, lockAlong_of_apart hl fun r hr => (h r hr).2]

/-- R48, R134: an event of a command that may store only to RTC addresses apart from the unlock register does not move a
lock that is not `HALF`, whatever part of its transaction arrives. -/
theorem lock_targetAfter_of_apart {i : Instr} {s : State} {e : Event} (hw : s.cfg.wf = true) (hs : Sequenced s)
    (hp : s.phase = .busy) (hd : decode s.cmd = .ok i) (he : (s.traceOf i)[s.seq]? = some e)
    (hmay : ∀ x r, mayStore s.cfg x r i = true → x = .rtc ∧ r ≠ 0x09#8) (hl : s.target.lock ≠ .half) :
    (s.targetAfter e).lock = s.target.lock := by
  cases e
  case endT =>
    obtain ⟨dev, p, ds, hpend, hcov⟩ := hs.pending_at_end hp hd he
    obtain heq | ⟨a, bytes, x, hwrite, hx, heq⟩ := s.targetAfterEnd_cases
    · rw [State.targetAfter, heq]
    · obtain ⟨rfl, rfl⟩ := Prod.mk.inj (Option.some.inj (hwrite.symm.trans hpend))
      obtain rfl : dev = x := by simpa [deviceAt_addrOf hw] using hx
      rw [State.targetAfter, heq]
      obtain hnil | ⟨k, hk⟩ := s.env.arriving_eq p ds
      · rw [hnil, Target.deliver]
      · rw [hk]
        exact Target.lock_deliver_of_apart hl fun r hr => hmay dev r (hcov r (hr.trans_le (List.length_take_le' k ds)))
  case recv =>
    obtain ⟨-, hlock, -⟩ := s.targetAfterRecv_frame
    exact hlock
  all_goals rfl

/-- Settles O59: the window holds no time register and not the unlock register, and only the byte at the location is
stored. -/
theorem sramwrTouchesNoTimeRegister : Obligations.SramwrTouchesNoTimeRegister := by
  intro s t loc data hw hs hknown hd h
  have hkeeps : ∀ a : Byte, ¬(0x20 ≤ a.toNat ∧ a.toNat ≤ 0x5F) → t.byteAt .rtc a = s.byteAt .rtc a := fun a ha =>
    commandsKeepToTheirRegisters _ s t .rtc a hw hs hknown hd h (mayStore_sramwr_of_outside ha ..)
  refine ⟨fun k hk => hkeeps _ (timeRegister_outside_window hw hk), hkeeps _ (by decide), fun hl => ?_⟩
  obtain ⟨e, hp, he, rfl⟩ | ⟨-, -, htarget, -⟩ := exec_emits_or_keeps h
  · refine lock_targetAfter_of_apart hw hs hp (hd hp) he (fun x r hmay => ?_) hl
    obtain ⟨rfl, rfl, hin⟩ := (mayStore_sramwr_iff ..).mp hmay
    exact ⟨rfl, by rintro rfl; cases hin⟩
  · rw [htarget]

end Sys2Proof.Machine
end

section
/-! The identity accessor's statements (spec 44_identity_accessor.md): the steps of IDUNLOCK, MACWR and MACRD, the six bytes
written under an unlocked unique-ID block and read back, and a write that the lock turns away. -/

namespace Sys2Proof.Machine

/-! ## The steps of each command -/

/-- Settles O19, by IDUNLOCK's own trace. -/
theorem idunlockWritesTheTwoKeys : Obligations.IdunlockWritesTheTwoKeys :=
  walksTrace_of_traceOf (fun _ _ => rfl) nofun toIdle_finishQuiet

/-- Settles O20, by MACWR's own trace, which does not look at the lock. -/
theorem macwrWritesTheSixBytes : Obligations.MacwrWritesTheSixBytes :=
  fun _ _ _ _ _ _ => walksTrace_of_traceOf (fun _ _ => rfl) nofun toIdle_finishQuiet

/-- Settles O21, by MACRD's own trace and result. -/
theorem macrdReadsTheSixBytes : Obligations.MacrdReadsTheSixBytes :=
  walksTrace_of_traceOf (fun _ _ => rfl) nofun fun s => toIdle_finishResult (macrdResult s.rxbuf) s

/-! ## What each command does to the target -/

theorem State.completed_cfg (s : State) (i : Instr) : (s.completed i).cfg = s.cfg := by
  simp [State.completed, State.walked]

theorem State.completed_host (s : State) (i : Instr) : (s.completed i).host = s.host.tail := by
  simp [State.completed, State.walked, finishOf_frame]

theorem MemoryCanonical.emitAll {s : State} (h : MemoryCanonical s) (tr es : List Event) :
    MemoryCanonical (s.emitAll tr es) := by
  induction es generalizing s with
  | nil => exact h
  | cons e es ih => exact ih (emit_keeps_memoryCanonical tr e h)

/-- A command keeps both stores canonical (R104). -/
theorem MemoryCanonical.completed {s : State} (h : MemoryCanonical s) (i : Instr) :
    MemoryCanonical (s.completed i) := by
  have hacc : MemoryCanonical (s.accept (encode i)) := h
  rw [MemoryCanonical, State.completed_target]
  exact hacc.emitAll _ _

/-- Two write sequences to a device, delivered one after the other (R47, R100). -/
theorem NoFailure.emitAll_writeSeq_writeSeq {s : State} (h : NoFailure s) {dev : Device}
    (hx : deviceAt s.cfg (addrOf s.cfg dev) = some dev) (tr : List Event) (p q : Byte) (ds es : List Byte) :
    (s.emitAll tr (writeSeq s.cfg dev p ds ++ writeSeq s.cfg dev q es)).target =
      (s.target.deliver dev (p :: ds)).deliver dev (q :: es) := by
  have hsecond := (h.emitAll tr (writeSeq s.cfg dev p ds)).emitAll_writeSeq (by simpa using hx) tr q es
  rw [State.emitAll_cfg] at hsecond
  rw [State.emitAll_append, hsecond, h.emitAll_writeSeq hx]

/-- R50: the two keys, one after the other, unlock from every state of the lock. -/
theorem lockStep_keys (l : Lock) : lockStep (lockStep l 0x55#8) 0xAA#8 = .unlocked := by
  cases l <;> rfl

/-- A byte delivered to the unlock register runs the lock machine (R48, R50). -/
theorem Target.lock_deliver_unlockReg (t : Target) (v : Byte) :
    (t.deliver .rtc [0x09#8, v]).lock = lockStep t.lock v := by
  rw [Target.lock_deliver_rtc, lockAlong, lockAlong, lockAfterRtcStore_unlockReg]

section
variable {s : State}

/-- R140: IDUNLOCK delivers its two keys to the unlock register. -/
theorem target_completed_idunlock (h : NoFailure s) :
    (s.completed .idunlock).target = (s.target.deliver .rtc [0x09#8, 0x55#8]).deliver .rtc [0x09#8, 0xAA#8] := by
  have hacc : NoFailure (s.accept (encode .idunlock)) := h
  rw [State.completed_target]
  exact hacc.emitAll_writeSeq_writeSeq (deviceAt_rtc s.cfg) _ 0x09#8 0x09#8 [0x55#8] [0xAA#8]

/-- R143: IDUNLOCK leaves the block unlocked, whatever the lock was. -/
theorem lock_completed_idunlock (h : NoFailure s) : (s.completed .idunlock).target.lock = .unlocked := by
  rw [target_completed_idunlock h, Target.lock_deliver_unlockReg, Target.lock_deliver_unlockReg, lockStep_keys]

/-- R141: MACWR delivers its six bytes to the EEPROM at the pointer `0xF2`. -/
theorem target_completed_macwr (hw : s.cfg.wf = true) (h : NoFailure s) (b0 b1 b2 b3 b4 b5 : Byte) :
    (s.completed (.macwr b0 b1 b2 b3 b4 b5)).target = s.target.deliver .eeprom [0xF2#8, b0, b1, b2, b3, b4, b5] := by
  have hacc : NoFailure (s.accept (encode (.macwr b0 b1 b2 b3 b4 b5))) := h
  rw [State.completed_target]
  exact hacc.emitAll_writeSeq (deviceAt_addrOf hw .eeprom) _ 0xF2#8 [b0, b1, b2, b3, b4, b5]

/-- R47, R50: MACWR relocks an unlocked block (log 20). -/
theorem lock_completed_macwr (hw : s.cfg.wf = true) (h : NoFailure s) (b0 b1 b2 b3 b4 b5 : Byte) :
    (s.completed (.macwr b0 b1 b2 b3 b4 b5)).target.lock =
      if s.target.lock = .unlocked then .locked else s.target.lock := by
  simp [target_completed_macwr hw h, Target.lock_deliver_eeprom]

/-- R142: MACRD's result looks at the first six bytes received only. -/
theorem macrdResult_congr {a b : Buf} (h : ∀ k : Fin 7, k.val < 6 → a.get k = b.get k) :
    macrdResult a = macrdResult b := by
  simp only [macrdResult, Buf.mk.injEq, and_true]
  exact ⟨h 0 (by decide), h 1 (by decide), h 2 (by decide), h 3 (by decide), h 4 (by decide), h 5 (by decide)⟩

/-- R142: MACRD completes with the six bytes of the EEPROM from `0xF2` on. -/
theorem res_completed_macrd (hw : s.cfg.wf = true) (h : NoFailure s) {r : Buf}
    (hr : ∀ k : Fin 7, k.val < 6 → s.byteAt .eeprom (0xF2#8 + BitVec.ofNat 8 k) = r.get k) :
    (s.completed .macrd).res = macrdResult r := by
  have hacc : NoFailure (s.accept (encode .macrd)) := h
  have hrx : macrdResult (s.walked .macrd).rxbuf = macrdResult r := macrdResult_congr fun k hk =>
    (hacc.get_rxbuf_readSeq (deviceAt_addrOf hw .eeprom) rfl (List.prefix_refl _) hk).trans (hr k hk)
  rw [← hrx]
  rfl

/-! ## IDUNLOCK, MACWR, MACRD -/

/-- Data byte `k` of a transaction to an unlocked EEPROM is the byte at the pointer plus `k` (R47, R48). -/
theorem byteAt_of_deliver_unlocked {t : State} {p : Byte} {ds : List Byte} (hs : MemoryCanonical s)
    (hlock : s.target.lock = .unlocked) (ht : t.target = s.target.deliver .eeprom (p :: ds)) (hlen : ds.length ≤ 256)
    {k : Nat} (hk : k < ds.length) : t.byteAt .eeprom (p + BitVec.ofNat 8 k) = ds[k] := by
  rw [State.byteAt, ht, Target.read_deliver _ .eeprom p _ ds ((memoryCanonical_iff s).mp hs) hlen,
    if_pos (by simp [Target.takes, hlock]), toNat_add_sub_ofNat (by omega), List.getD_eq_getElem _ _ hk]

/-- R141, R48: under an unlocked block the six bytes of MACWR are stored from `0xF2` on. -/
theorem byteAt_completed_macwr (hw : s.cfg.wf = true) (h : NoFailure s) (hs : MemoryCanonical s)
    (hlock : s.target.lock = .unlocked) (b0 b1 b2 b3 b4 b5 b6 : Byte) {k : Fin 7} (hk : k.val < 6) :
    (s.completed (.macwr b0 b1 b2 b3 b4 b5)).byteAt .eeprom (0xF2#8 + BitVec.ofNat 8 k) =
      (Buf.mk b0 b1 b2 b3 b4 b5 b6).get k := by
  rw [byteAt_of_deliver_unlocked hs hlock (target_completed_macwr hw h b0 b1 b2 b3 b4 b5) (by simp) hk]
  match k, hk with
  | 0, _ | 1, _ | 2, _ | 3, _ | 4, _ | 5, _ => rfl

/-- R143: MACRD after MACWR under an unlocked block returns MACWR's bytes. -/
theorem res_completed_macwr_macrd (hw : s.cfg.wf = true) (h : NoFailure s) (hs : MemoryCanonical s)
    (hlock : s.target.lock = .unlocked) (b0 b1 b2 b3 b4 b5 : Byte) :
    ((s.completed (.macwr b0 b1 b2 b3 b4 b5)).completed .macrd).res = ⟨b0, b1, b2, b3, b4, b5, 0⟩ :=
  res_completed_macrd ((State.completed_cfg ..).symm ▸ hw) (h.completed _)
    fun _ => byteAt_completed_macwr hw h hs hlock b0 b1 b2 b3 b4 b5 0

/-- R140: IDUNLOCK takes ten steps. -/
theorem Presents.run_idunlock (hpres : Presents .idunlock s) (h : NoFailure s) :
    Host.Core.run core 10 s = .next (s.completed .idunlock) :=
  hpres.run_complete h.returns_eq rfl nofun

/-- R141: MACWR takes eleven steps. -/
theorem Presents.run_macwr {b0 b1 b2 b3 b4 b5 : Byte} (hpres : Presents (.macwr b0 b1 b2 b3 b4 b5) s)
    (h : NoFailure s) :
    Host.Core.run core 11 s = .next (s.completed (.macwr b0 b1 b2 b3 b4 b5)) :=
  hpres.run_complete h.returns_eq rfl nofun

/-- R142: MACRD takes twelve steps. -/
theorem Presents.run_macrd (hpres : Presents .macrd s) (h : NoFailure s) :
    Host.Core.run core 12 s = .next (s.completed .macrd) :=
  hpres.run_complete h.returns_eq rfl nofun

end

/-- Settles O41: IDUNLOCK unlocks the block from every state, MACWR then stores its six bytes and relocks, and MACRD receives
the bytes stored. -/
theorem unlockWriteReadReturnsTheAddress : Obligations.UnlockWriteReadReturnsTheAddress := by
  intro s b0 b1 b2 b3 b4 b5 hpres hnf hs hhost
  obtain ⟨rest, hrest⟩ : ∃ rest, s.host.tail = encode (.macwr b0 b1 b2 b3 b4 b5) :: encode .macrd :: rest :=
    ⟨_, (List.take_append_drop 2 s.host.tail).symm.trans (congrArg (· ++ _) hhost)⟩
  have hnf' := hnf.completed .idunlock
  have hnf'' := hnf'.completed (.macwr b0 b1 b2 b3 b4 b5)
  have hpres' : Presents (.macwr b0 b1 b2 b3 b4 b5) (s.completed .idunlock) :=
    hpres.presents_completed hnf.returns_eq (by rw [hrest, List.head?_cons])
  have hpres'' : Presents .macrd ((s.completed .idunlock).completed (.macwr b0 b1 b2 b3 b4 b5)) :=
    hpres'.presents_completed hnf'.returns_eq (by rw [State.completed_host, hrest, List.tail_cons, List.head?_cons])
  have hlock := lock_completed_idunlock hnf
  have hrun' := hpres'.run_macwr hnf'
  obtain ⟨hw', -⟩ := hpres'
  exact ⟨_, _, _, hpres.run_idunlock hnf, hrun', hpres''.run_macrd hnf'', rfl, hlock,
    by rw [lock_completed_macwr hw' hnf', if_pos hlock],
    res_completed_macwr_macrd hw' hnf' (hs.completed .idunlock) hlock b0 b1 b2 b3 b4 b5⟩

/-! ## MACWR under a block that is not unlocked -/

/-- R48: under a block that is not unlocked, MACWR changes no byte of the EEPROM: the six addresses take none, and no other
is reached. -/
theorem byteAt_completed_macwr_of_not_unlocked {s : State} (hw : s.cfg.wf = true) (h : NoFailure s) (hs : MemoryCanonical s)
    (hlock : s.target.lock ≠ .unlocked) (b0 b1 b2 b3 b4 b5 a : Byte) :
    (s.completed (.macwr b0 b1 b2 b3 b4 b5)).byteAt .eeprom a = s.byteAt .eeprom a := by
  rw [State.byteAt, target_completed_macwr hw h]
  by_cases ha : 0xF2 ≤ a.toNat ∧ a.toNat ≤ 0xF7
  · have htakes : ¬ s.target.takes .eeprom a = true := by simp [Target.takes_iff, hlock, ha]
    rw [Target.read_deliver _ _ _ _ _ ((memoryCanonical_iff s).mp hs) (by simp), if_neg htakes, State.byteAt]
  · have hpast : 6 ≤ (a - 0xF2#8).toNat := by bv_omega
    rw [Target.read_deliver_outside _ _ _ _ _ [b0, b1, b2, b3, b4, b5] (.inr hpast), State.byteAt]

/-- Settles O42: the command completes with its trace as every command does, and its bytes fall on the block that takes
none. -/
theorem macwrWithoutUnlockIsIgnored : Obligations.MacwrWithoutUnlockIsIgnored := by
  intro s b0 b1 b2 b3 b4 b5 hpres hnf hs hlock
  obtain ⟨t, hrun, hidle, -, hevents, hstatus, -⟩ := everyCommandRunsToCompletion _ s hpres hnf.returns_eq
  obtain rfl : t = s.completed (.macwr b0 b1 b2 b3 b4 b5) :=
    Host.Outcome.next.inj (hrun.symm.trans (hpres.run_macwr hnf))
  obtain ⟨hw, -⟩ := hpres
  exact ⟨_, hrun, hidle, hstatus, hevents, byteAt_completed_macwr_of_not_unlocked hw hnf hs hlock b0 b1 b2 b3 b4 b5,
    by rw [lock_completed_macwr hw hnf, if_neg hlock]⟩

end Sys2Proof.Machine
end

section
/-! Exceptions (spec 60_exceptions.md): the machine has no trap, and no command has an outcome other than a next state. -/

namespace Sys2Proof.Machine

/-- Settles O29, by the phase, the place in the trace and whether the primitive returns: the engine has a next state in each
case, and when it hangs that is the same state (R44). -/
theorem noCommandStops : Obligations.NoCommandStops :=
  exec_answers_next

end Sys2Proof.Machine
end

section
/-! Reset (spec 70_reset_and_hazards.md): what the reset input does to the block and to the target, and what is known after a
reset of a busy block. -/

namespace Sys2Proof.Machine

/-! ## The reset input -/

/-- R170: an asserted reset input is served, whatever the block is doing. -/
theorem step_of_resetIn {s : State} (hw : s.cfg.wf = true) (hr : s.resetIn = true) : step s = .next s.blockReset := by
  simp [step, hw, hr]

/-- R170: with the reset input asserted a step has no other next state. -/
theorem eq_blockReset_of_step {s t : State} (hr : s.resetIn = true) (h : step s = .next t) : t = s.blockReset := by
  obtain ⟨hw, -⟩ := step_cases h
  exact Host.Outcome.next.inj (h.symm.trans (step_of_resetIn hw hr))

/-- R171: a reset changes no byte of either device. -/
theorem State.mem_target_blockReset (s : State) (x : Device) : s.blockReset.target.mem x = s.target.mem x := by
  cases x <;> rfl

/-- R171: a reset moves neither pointer. -/
theorem State.ptr_target_blockReset (s : State) (x : Device) : s.blockReset.target.ptr x = s.target.ptr x := by
  cases x <;> rfl

/-- R171, R172: a reset of an idle block leaves even what is known of the target as it was. -/
theorem State.target_blockReset_of_idle {s : State} (hp : s.phase = .idle) : s.blockReset.target = s.target := by
  simp [hp]

/-- Settles O52: the step is `blockReset`, whose laws give each field, and the idle block it leaves waits when the host
presents nothing. -/
theorem theResetInputResetsTheBlockOnly : Obligations.TheResetInputResetsTheBlockOnly := by
  intro s hw hr
  have hwait (hh : s.host = []) : step s.blockReset = .next s.blockReset :=
    step_of_wait hw s.blockReset_resetIn s.blockReset_phase hh
  exact ⟨s.blockReset, step_of_resetIn hw hr, s.blockReset_phase, s.blockReset_seq, s.blockReset_status,
    s.blockReset_resWritten, s.blockReset_events, s.blockReset_cfg, s.blockReset_host, s.blockReset_bus,
    fun x => ⟨s.mem_target_blockReset x, s.ptr_target_blockReset x⟩, rfl, State.target_blockReset_of_idle,
    fun hh => run_of_step_self (hwait hh)⟩

/-! ## After a reset of a busy block -/

/-- R172: no step makes an unknown target known: a reset keeps it unknown, and no other step touches what is known. -/
theorem step_keeps_unknown {s t : State} (hk : s.target.known = false) (h : step s = .next t) :
    t.target.known = false := by
  obtain ⟨-, ⟨-, rfl⟩ | ⟨-, -, rfl⟩ | ⟨w, -, -, rfl⟩ | ⟨i, -, -, hi⟩⟩ := step_cases h
  · simp [hk]
  · exact hk
  · exact hk
  · exact (exec_keeps_known hi).trans hk

/-- R172: no device answers a `RECV` while the target is unknown, so the byte is `any8`. -/
theorem State.received_of_unknown {s : State} (hk : s.target.known = false) : s.received = Config.any8 s.draws := by
  have hans : s.answering = none := by simp [State.answering, hk]
  simp [State.received, hans]

/-- Settles O53: the step is `blockReset` in its busy case, every step keeps an unknown target unknown, and then no device
answers. -/
theorem aResetOfABusyBlockLosesTheTarget : Obligations.AResetOfABusyBlockLosesTheTarget := by
  refine ⟨fun s t hr hp h => ?_, fun _ _ => step_keeps_unknown, fun _ => State.received_of_unknown⟩
  obtain rfl := eq_blockReset_of_step hr h
  simp [hp]

end Sys2Proof.Machine
end
